-- ==== Sys2Proof/Word.lean ====
section
/-! DEFINITION. The two word types of SIPFC (R8) and the constants the source fixes (R5). -/

namespace Sys2Proof

/-- A byte: an unsigned 8-bit value (R8). Characters are bytes carrying their ASCII code (R9). -/
abbrev Byte := BitVec 8

/-- `u16`: an unsigned 16-bit value (R8). -/
abbrev U16 := BitVec 16

/-- `SEED` (R5): the initial value of every checksum accumulator. -/
def seed : U16 := 0x147A#16

/-- `START` (R5): start marker and escape lead byte. -/
def startByte : Byte := 0xFE#8

/-- `END` (R5): terminator byte when it follows `START`. -/
def endByte : Byte := 0x0D#8

/-- `ESCAPED_START` (R5): second byte of an escaped `0xFE`. -/
def escapedStart : Byte := 0xF0#8

/-- `SELECTOR` (R5): the one selector byte of the no-data-with-selector shape. -/
def selector : Byte := 0x00#8

/-- `CODE_CHARS` (R5): characters in a prefix-and-user-code. -/
def codeChars : Nat := 16

/-- `CODE_BYTES` (R5): bytes a packed prefix-and-user-code occupies. -/
def codeBytes : Nat := 8

/-- `MIN_PAYLOAD` (R5): the shortest decodable payload. -/
def minPayload : Nat := 3

/-- `v[15:8]` of a `u16` (R8). -/
def hiByte (v : U16) : Byte := v.extractLsb' 8 8

/-- `v[7:0]` of a `u16` (R8). -/
def loByte (v : U16) : Byte := v.extractLsb' 0 8

end Sys2Proof
end

