-- ==== Sys2Proof/Syntax.lean ====
section
/-! DEFINITION. The instructions: one constructor per row of spec/opcode_table.json (13 port rows, 4 wire rows), the
request as the port carries it (R80, R83), and the pseudo-operations (R86). -/

namespace Sys2Proof

/-- An operation of SIPFC with its operands. The first thirteen are the requests of R81; the last four are the byte
classes of R73, a byte that the transport delivers to the Frame Decoder (log 3). -/
inductive Instr where
  /-- CK_INIT (R103). -/
  | ckInit
  /-- CK_ADD (R104): byte `b` in `DATA`. -/
  | ckAdd (b : Byte)
  /-- CK_READ (R105). -/
  | ckRead
  /-- ENC_ADD (R120): payload byte `b` in `DATA`. -/
  | encAdd (b : Byte)
  /-- ENC_FRAME (R121). -/
  | encFrame
  /-- DEC_ADD (R141): wire byte `b` in `DATA`. -/
  | decAdd (b : Byte)
  /-- DEC_FRAME (R149). -/
  | decFrame
  /-- DEC_RESET (R150). -/
  | decReset
  /-- MSG_ENC_NODATA (R174): command code `cmd` in `DATA`. -/
  | msgEncNodata (cmd : Byte)
  /-- MSG_ENC_SEL (R175): command code `cmd` in `DATA`. -/
  | msgEncSel (cmd : Byte)
  /-- MSG_ENC_AUTH (R176): command code `cmd` in `DATA`, sequence operands `CODE` and `FLAGS`. -/
  | msgEncAuth (cmd : Byte) (code : List Byte) (flags : List Bool)
  /-- MSG_DECODE (R201): sequence operand `RAW`. -/
  | msgDecode (raw : List Byte)
  /-- MSG_DISPATCH (R202). -/
  | msgDispatch
  /-- WIRE_START (R73): the wire byte `0xFE`. -/
  | wireStart
  /-- WIRE_END (R73): the wire byte `0x0D`. -/
  | wireEnd
  /-- WIRE_ESCAPED_START (R73): the wire byte `0xF0`. -/
  | wireEscapedStart
  /-- WIRE_OTHER (R73): any other wire byte, the byte itself being what the decoder appends. -/
  | wireOther (b : Byte)
  deriving DecidableEq, Repr

/-- The four classes of wire byte (R73). -/
inductive ByteClass where
  | start | endMark | escaped | other
  deriving DecidableEq, Repr

/-- A request as the port carries it (R80, R83): a 12-bit word and the sequence operands that were delivered with
it, each present or absent, so that a missing or an extra operand (R82) can be said. -/
structure Request where
  word : BitVec 12
  raw : Option (List Byte) := none
  code : Option (List Byte) := none
  flags : Option (List Bool) := none
  deriving DecidableEq, Repr

/-- What carries one instruction: a request on the port (R80) or a byte on the decoder's wire (R73). -/
inductive Packet where
  | request (r : Request)
  | wire (b : Byte)
  deriving DecidableEq, Repr

/-- The pseudo-operations of R86. -/
inductive Pseudo where
  | ckAdds (bs : List Byte)
  | encAdds (bs : List Byte)
  | decAdds (bs : List Byte)
  deriving DecidableEq, Repr

end Sys2Proof
end

