-- ==== Sys2Proof/WellFormed.lean ====
section
/-! DEFINITION. Which terms of `Instr` stand for something the machine can be given. -/

namespace Sys2Proof

/-- The one restriction the opcode table puts on an operand: WIRE_OTHER is "any byte not 0xFE, 0x0D or 0xF0" (R73).
Every `DATA` value and every sequence is an operand of the row it stands in (R81). -/
def Instr.wf : Instr → Bool
  | .wireOther b => b != startByte && b != endByte && b != escapedStart
  | .ckInit | .ckAdd _ | .ckRead | .encAdd _ | .encFrame | .decAdd _ | .decFrame | .decReset => true
  | .msgEncNodata _ | .msgEncSel _ | .msgEncAuth _ _ _ | .msgDecode _ | .msgDispatch => true
  | .wireStart | .wireEnd | .wireEscapedStart => true

/-- A well-formed instruction. -/
abbrev WellFormed (i : Instr) : Prop := i.wf = true

end Sys2Proof
end

