-- ==== Sys2Proof/Decode.lean ====
section
/-! DEFINITION. From a request or a wire byte to the instruction it stands for, rejecting by name, total (R73,
R80 to R83); after it the encoder, written from the same tables; the pseudo-operations (R86); and the host's view of
the opcode table's words. -/

namespace Sys2Proof

/-- Why the port does not accept a request. Every one is answered with `E_ILLEGAL_OP` (R82, R83). -/
inductive Reject where
  /-- `OP` is 0xD, 0xE or 0xF (R82). -/
  | reservedOp
  /-- `DATA` is not `0x00` where the opcode map says `0x00` (R82). -/
  | reservedData
  /-- A sequence operand the operation needs is absent (R82). -/
  | missingOperand
  /-- A sequence operand the operation does not take is present (R82). -/
  | extraOperand
  /-- A sequence operand is longer than `SEQ_CAP` (R83). -/
  | operandTooLong
  deriving DecidableEq, Repr

/-! ### Fields of the request word (R80) -/

/-- `OP[11:8]`. -/
def opField (w : BitVec 12) : BitVec 4 := w.extractLsb' 8 4

/-- `DATA[7:0]`. -/
def dataField (w : BitVec 12) : Byte := w.extractLsb' 0 8

/-- The request word `OP[11:8] DATA[7:0]`. -/
def mkWord (op : BitVec 4) (data : Byte) : BitVec 12 := op ++ data

/-! ### Wire bytes (R73) -/

/-- The class of a wire byte (R73): total, no byte value is illegal. -/
def classify (b : Byte) : ByteClass :=
  if b = startByte then .start
  else if b = endByte then .endMark
  else if b = escapedStart then .escaped
  else .other

/-- The row of the opcode table a wire byte belongs to (R73). -/
def decodeWire (b : Byte) : Instr :=
  match classify b with
  | .start => .wireStart
  | .endMark => .wireEnd
  | .escaped => .wireEscapedStart
  | .other => .wireOther b

/-! ### Requests (R81, R82) -/

/-- The request carries no sequence operand. -/
def Request.bare (r : Request) : Bool := r.raw.isNone && r.code.isNone && r.flags.isNone

/-- A row with a byte operand and no sequence operand. -/
def byteRow (r : Request) (mk : Byte → Instr) : Except Reject Instr :=
  if r.bare then .ok (mk (dataField r.word)) else .error .extraOperand

/-- A row whose `DATA` must be `0x00` and that takes no sequence operand. -/
def plainRow (r : Request) (i : Instr) : Except Reject Instr :=
  if dataField r.word = 0 then (if r.bare then .ok i else .error .extraOperand) else .error .reservedData

/-- MSG_ENC_AUTH's row: `CODE` and `FLAGS`, no `RAW`. -/
def authRow (r : Request) : Except Reject Instr :=
  match r.raw, r.code, r.flags with
  | some _, _, _ => .error .extraOperand
  | none, some c, some f => .ok (.msgEncAuth (dataField r.word) c f)
  | none, _, _ => .error .missingOperand

/-- MSG_DECODE's row: `DATA = 0x00`, `RAW`, neither `CODE` nor `FLAGS`. -/
def rawRow (r : Request) : Except Reject Instr :=
  if dataField r.word = 0 then
    match r.raw, r.code, r.flags with
    | some raw, none, none => .ok (.msgDecode raw)
    | none, none, none => .error .missingOperand
    | _, _, _ => .error .extraOperand
  else .error .reservedData

/-- The opcode map of R81, with the reserved and illegal requests of R82. -/
def decodeRequest (r : Request) : Except Reject Instr :=
  match (opField r.word).toNat with
  | 0x0 => plainRow r .ckInit
  | 0x1 => byteRow r .ckAdd
  | 0x2 => plainRow r .ckRead
  | 0x3 => byteRow r .encAdd
  | 0x4 => plainRow r .encFrame
  | 0x5 => byteRow r .decAdd
  | 0x6 => plainRow r .decFrame
  | 0x7 => plainRow r .decReset
  | 0x8 => byteRow r .msgEncNodata
  | 0x9 => byteRow r .msgEncSel
  | 0xA => authRow r
  | 0xB => rawRow r
  | 0xC => plainRow r .msgDispatch
  | _ => .error .reservedOp

/-- The instruction a packet carries. -/
def decode : Packet → Except Reject Instr
  | .request r => decodeRequest r
  | .wire b => .ok (decodeWire b)

/-- `length` is over the bound `cap`, no bound being `none` (R32, R83). -/
def exceeds (cap : Option Nat) (length : Nat) : Bool :=
  match cap with
  | none => false
  | some n => n < length

/-- Some sequence operand of the request is longer than `SEQ_CAP` (R83; `FLAGS` is counted in booleans, log 22). -/
def Request.tooLong (cap : Option Nat) (r : Request) : Bool :=
  exceeds cap ((r.raw.map List.length).getD 0) || exceeds cap ((r.code.map List.length).getD 0)
    || exceeds cap ((r.flags.map List.length).getD 0)

/-- What the port makes of a packet: the over-long operand is refused before the operation starts (R83), then R82. -/
def accept (seqCap : Option Nat) : Packet → Except Reject Instr
  | .request r => if r.tooLong seqCap then .error .operandTooLong else decodeRequest r
  | .wire b => .ok (decodeWire b)

/-! ### The encoder (R81, R73) -/

/-- The packet that carries an instruction. -/
def encode : Instr → Packet
  | .ckInit => .request { word := mkWord 0x0 0 }
  | .ckAdd b => .request { word := mkWord 0x1 b }
  | .ckRead => .request { word := mkWord 0x2 0 }
  | .encAdd b => .request { word := mkWord 0x3 b }
  | .encFrame => .request { word := mkWord 0x4 0 }
  | .decAdd b => .request { word := mkWord 0x5 b }
  | .decFrame => .request { word := mkWord 0x6 0 }
  | .decReset => .request { word := mkWord 0x7 0 }
  | .msgEncNodata cmd => .request { word := mkWord 0x8 cmd }
  | .msgEncSel cmd => .request { word := mkWord 0x9 cmd }
  | .msgEncAuth cmd code flags => .request { word := mkWord 0xA cmd, code := some code, flags := some flags }
  | .msgDecode raw => .request { word := mkWord 0xB 0, raw := some raw }
  | .msgDispatch => .request { word := mkWord 0xC 0 }
  | .wireStart => .wire startByte
  | .wireEnd => .wire endByte
  | .wireEscapedStart => .wire escapedStart
  | .wireOther b => .wire b

/-- The instructions a pseudo-operation stands for, in order; an empty list expands to no request (R86). -/
def Pseudo.expand : Pseudo → List Instr
  | .ckAdds bs => bs.map .ckAdd
  | .encAdds bs => bs.map .encAdd
  | .decAdds bs => bs.map .decAdd

/-! ### The words of the opcode table -/

/-- The request whose word is `w`, with every sequence operand its operation takes present and empty: the opcode
table gives the operands no bits, and zero bits stand for empty sequences (log 4). -/
def Request.ofWord (w : BitVec 12) : Request :=
  match (opField w).toNat with
  | 0xA => { word := w, code := some [], flags := some [] }
  | 0xB => { word := w, raw := some [] }
  | _ => { word := w }

/-- The packet that a row of `nbits` bits with value `w` is: a row of one byte is a wire row, a longer one a port row
(log 17). -/
def tablePacket (nbits w : Nat) : Packet :=
  if nbits ≤ 8 then .wire (BitVec.ofNat 8 w) else .request (Request.ofWord (BitVec.ofNat 12 w))

/-- The instruction the decoder reads from the opcode table's word `w`; `none` where it refuses, and where `w` has a
bit that the byte (8 bits) or the request word (12 bits) does not have (log 17). -/
def decodeTableWord (nbits w : Nat) : Option Instr :=
  if w < (if nbits ≤ 8 then 256 else 4096) then
    match decode (tablePacket nbits w) with
    | .ok i => some i
    | .error _ => none
  else none

end Sys2Proof
end

