-- ==== Sys2Proof/Config.lean ====
section
/-! DEFINITION. The parameters of a SIPFC model (R6): the command catalog, the result texts, the capacities. Those the
spec leaves OPEN are opaque constants: nothing can be proved of their values. -/

namespace Sys2Proof

/-- A non-empty finite set of lengths: the `L` of `FlagsAuth(L)` and the `A` of `FlagArray(A)` are non-empty (D21), so
the empty set cannot be written. -/
structure LengthSet where
  first : Nat
  more : List Nat
  deriving DecidableEq, Repr, Inhabited

/-- Membership in a length set. -/
def LengthSet.has (l : LengthSet) (n : Nat) : Bool := n == l.first || l.more.contains n

/-- The answer variant of a command code (R30). -/
inductive AnswerVariant where
  | flagArray (accepted : LengthSet)
  | changeNotify
  | result
  deriving DecidableEq, Repr, Inhabited

/-- `CATALOG(c) = (enc, ans)` (R30). `enc` is a subset of NoData, NoDataSel, FlagsAuth(L) with at most one FlagsAuth
(D21), held as one field per shape. -/
structure Entry where
  noData : Bool := false
  noDataSel : Bool := false
  flagsAuth : Option LengthSet := none
  ans : Option AnswerVariant := none
  deriving DecidableEq, Repr, Inhabited

/-- The command catalog (R30): the entries of the codes it lists, and the codes whose change predicates it names
(R212, item I2; log 23). -/
structure Catalog where
  rows : List (Byte × Entry)
  named : List Byte
  deriving DecidableEq, Repr, Inhabited

/-- The thirteen result kinds of R208. -/
inductive ResultKind where
  | ok | userCodeNotFound | noAccess | userDoesNotExist | userAlreadyExists | wrongOrDuplicateCode
  | telephoneCodeExists | unchangedCode | otherError | canForceArm | cannotArm | commandAccepted | unknown
  deriving DecidableEq, Repr

/-- `RESULT_TEXT` (R6, R209): the texts of the kinds whose text the source does not fix (eleven of them, log 11). -/
structure ResultTexts where
  ok : String
  userCodeNotFound : String
  noAccess : String
  userDoesNotExist : String
  userAlreadyExists : String
  wrongOrDuplicateCode : String
  telephoneCodeExists : String
  unchangedCode : String
  otherError : String
  canForceArm : String
  cannotArm : String
  deriving DecidableEq, Repr, Inhabited

/-- The two immutable tables. They are process-wide (R30, R62): all instances of one system read the same (R251). -/
structure Tables where
  catalog : Catalog
  resultTexts : ResultTexts
  deriving DecidableEq, Repr

/-- The capacities of an instance (R6, R32, R83); `none` is unbounded. -/
structure Caps where
  decBufCap : Option Nat := none
  encOutCap : Option Nat := none
  seqCap : Option Nat := none
  deriving DecidableEq, Repr

/-- The read-only configuration that an instance reads (R6, R20): the tables of its system and its own capacities. -/
structure Params extends Tables, Caps where
  deriving DecidableEq, Repr

/-- `CATALOG`, OPEN (R6, R7, D21; log 5): a free value. -/
opaque Config.catalog : Catalog

/-- `RESULT_TEXT`, OPEN (R6, D20; log 5): a free value. -/
opaque Config.resultTexts : ResultTexts

/-- The parameters of the machine after reset: the two open tables, and the capacities at the spec's default
"unbounded" (R6, R32, D10; log 6). -/
def Config.params : Params := { catalog := Config.catalog, resultTexts := Config.resultTexts }

/-! ### A configuration as it is given, before it is checked (R273, D21) -/

/-- An encoding shape as a configuration writes it (R30). -/
inductive RawShape where
  | noData
  | noDataSel
  | flagsAuth (lengths : List Nat)
  deriving DecidableEq, Repr

/-- An answer variant as a configuration writes it (R30). -/
inductive RawVariant where
  | flagArray (lengths : List Nat)
  | changeNotify
  | result
  deriving DecidableEq, Repr

/-- One row of a catalog as a configuration writes it (R30). -/
structure RawRow where
  code : Byte
  enc : List RawShape
  ans : Option RawVariant
  deriving DecidableEq, Repr

/-- A configuration and how many requesters are attached to the instance (R6, R60; none: log 25). -/
structure Setup where
  rows : List RawRow
  named : List Byte
  resultTexts : ResultTexts
  decBufCap : Option Nat := none
  encOutCap : Option Nat := none
  seqCap : Option Nat := none
  requesters : Nat := 1
  deriving DecidableEq, Repr

/-- What a configuration gives one instance of a system: its capacities and how many requesters it has (R6, R60; none: log 25). -/
structure MemberSetup extends Caps where
  requesters : Nat := 1
  deriving DecidableEq, Repr

/-- The configuration of a system of instances: the tables once for all of them (R30, R62, R251). -/
structure SystemSetup where
  rows : List RawRow
  named : List Byte
  resultTexts : ResultTexts
  members : List MemberSetup
  deriving DecidableEq, Repr

/-- The setup of one instance of a system: the system's tables and the instance's own part. -/
def SystemSetup.setupOf (c : SystemSetup) (m : MemberSetup) : Setup where
  rows := c.rows
  named := c.named
  resultTexts := c.resultTexts
  decBufCap := m.decBufCap
  encOutCap := m.encOutCap
  seqCap := m.seqCap
  requesters := m.requesters

end Sys2Proof
end

