-- ==== Sys2Proof/Machine/State.lean ====
section
/-! DEFINITION. The state of one SIPFC instance (R20), the response of a request (R84), the reasons a run can stop,
and the state after reset (R33, R270). -/

namespace Sys2Proof.Machine

open Sys2Proof

/-- The six states of the Frame Decoder (R25). -/
inductive DecState where
  /-- AwaitingFirstStart -/
  | s0
  /-- AwaitingSecondStart -/
  | s1
  /-- AwaitingFirstPayloadByte -/
  | s2
  /-- ReceivingPayload -/
  | s3
  /-- EscapeReceived -/
  | s4
  /-- FrameComplete -/
  | s5
  deriving DecidableEq, Repr

/-- An answer (R35): a value that MSG_DECODE and MSG_DISPATCH return, never stored by the block. -/
inductive Answer where
  | flags (code : Byte) (flags : List Bool)
  | change (code : Byte) (flags : List Bool)
  | result (code : Byte) (r : Byte)
  deriving DecidableEq, Repr

/-- The status of a response (R240). Codes 6 and 7 are never produced (item I13), so they have no constructor. -/
inductive Status where
  | ok | illegalOp | notInCatalog | codeLength | codeChar | flagsLength
  deriving DecidableEq, Repr

/-- The value of a response (the value column of R81). -/
inductive Value where
  /-- the `u16` of CK_READ -/
  | word (v : U16)
  /-- a byte sequence: ENC_FRAME, DEC_FRAME and the MSG_ENC operations -/
  | bytes (bs : List Byte)
  /-- the `DONE` bit of DEC_ADD (R148) -/
  | done (d : Bool)
  /-- the optional answer of MSG_DECODE and MSG_DISPATCH (R203) -/
  | answer (a : Option Answer)
  deriving DecidableEq, Repr

/-- A response: the pair `(status, value)` of R84, the value absent (`none`) where R81 says none and on every error. -/
structure Response where
  status : Status
  value : Option Value
  deriving DecidableEq, Repr

/-- What reaches the block from outside: a request or a wire byte, or a reset (R270). -/
inductive Event where
  | packet (p : Packet)
  | reset
  deriving DecidableEq, Repr

/-- Why a step stops the machine. -/
inductive Fault where
  /-- `FAULT_OVERFLOW` (R253): raised by a step of an instance that is faulted and is not being reset. The spec's own
  fault; safe: the machine does nothing that the spec gives it to do. -/
  | faultOverflow
  /-- `DEC_STATE` holds code 6 or 7, which has no meaning (R25, item I1): raised by DEC_ADD, by a wire byte and by
  MSG_DISPATCH, the operations that read it. The spec's own fault; safe: no step produces the codes. -/
  | decStateUnassigned
  /-- A status code 6 or 7 (R240, item I13): raised by `readStatus` only, never by a step. The spec's own fault;
  safe. -/
  | statusReserved
  deriving DecidableEq, Repr

/-- Why the model gives no meaning. -/
inductive Refusal where
  /-- The instruction has no meaning in the model yet. Safe. (No arm of `exec` answers it.) -/
  | notModelled (mnemonic : String)
  /-- The configuration is malformed (R273, D21, item I3): raised by `boot`, before the first request. Safe: the spec
  asks for this refusal. -/
  | malformedCatalog
  /-- More than one requester on one instance (R60, item I6): raised by `boot`, before the first request. Safe: the
  spec asks for this refusal. -/
  | concurrentRequesters
  deriving DecidableEq, Repr

/-- The state of one SIPFC instance. The first six fields are the spec's; the configuration is read-only (R20); the
last two are the model's own, the two sides of the request port (log 1, log 2). -/
structure State where
  /-- `CK` (R21) -/
  ck : U16
  /-- `ENC_CK` (R22) -/
  encCk : U16
  /-- `ENC_OUT` (R23) -/
  encOut : List Byte
  /-- `DEC_STATE` (R25), as its 3-bit code -/
  decState : BitVec 3
  /-- `DEC_BUF` (R26) -/
  decBuf : List Byte
  /-- `FAULT_OVERFLOW` is set (R253, R270; log 7) -/
  faulted : Bool
  /-- `CATALOG`, `RESULT_TEXT` and the capacities (R6, R20) -/
  params : Params
  /-- what the requester has sent and the block has not yet performed, in order (R59; log 1) -/
  pending : List Event
  /-- the responses given so far, oldest first (R284; log 2) -/
  responses : List Response
  deriving DecidableEq, Repr

/-- A freshly reset instance with the configuration `p` and nothing sent to it (R33, R270). -/
def State.fresh (p : Params) : State where
  ck := seed
  encCk := seed
  encOut := []
  decState := 0
  decBuf := []
  faulted := false
  params := p
  pending := []
  responses := []

/-- The machine right after reset (R33, R270), with the model's parameters. -/
def State.reset : State := State.fresh Config.params

end Sys2Proof.Machine
end

