-- ==== Sys2Proof/Machine/Flags.lean ====
section
/-! DEFINITION. SIPFC has no flags register (R28); its indicators are fields of a response: the status code (R240) and
the `DONE` bit (R148). -/

namespace Sys2Proof.Machine

open Sys2Proof

/-- The 3-bit code of a status (R240). -/
def Status.code : Status → BitVec 3
  | .ok => 0
  | .illegalOp => 1
  | .notInCatalog => 2
  | .codeLength => 3
  | .codeChar => 4
  | .flagsLength => 5

/-- Reading a status code: 6 and 7 are reserved and have no meaning (R240, item I13; log 21). -/
def readStatus (c : BitVec 3) : Except Fault Status :=
  match c.toNat with
  | 0 => .ok .ok
  | 1 => .ok .illegalOp
  | 2 => .ok .notInCatalog
  | 3 => .ok .codeLength
  | 4 => .ok .codeChar
  | 5 => .ok .flagsLength
  | _ => .error .statusReserved

/-- The response of a completed operation (R84): status `OK` and the operation's value, if it has one. -/
def Response.okay (v : Option Value) : Response := { status := .ok, value := v }

/-- The response of an operation that ends with an error status: it carries no value (R84, R241). -/
def Response.failed (e : Status) : Response := { status := e, value := none }

/-- `DONE` (R148): true exactly when a byte takes the decoder from S4 to S5 on `0x0D`. -/
def doneBit (st : DecState) (c : ByteClass) : Bool :=
  match st, c with
  | .s4, .endMark => true
  | _, _ => false

end Sys2Proof.Machine
end

