-- ==== Sys2Proof/Machine/Operands.lean ====
section
/-! DEFINITION. The operand forms: assembly of the prefix-and-user-code (R57, R77, R171) and of flag arrays (R56, R78,
R79, R172), and the catalog entry a command code names (R30, R170). -/

namespace Sys2Proof.Machine

open Sys2Proof

/-! ### Catalog -/

/-- The entry of a code no row lists: not in the catalog (R30). -/
def emptyEntry : Entry := {}

/-- `CATALOG(c)` (R30). -/
def Catalog.entry (cat : Catalog) (c : Byte) : Entry := (cat.rows.lookup c).getD emptyEntry

/-- The code is in the catalog: it has a shape or an answer variant (R30). -/
def Catalog.listed (cat : Catalog) (c : Byte) : Bool := decide (Catalog.entry cat c ≠ emptyEntry)

/-! ### Prefix-and-user-code (R77, R171) -/

/-- The character is one of `0`-`9`, `F`, `f`, as ASCII (R171; log 16). -/
def isCodeChar (c : Byte) : Bool := (0x30#8 ≤ c && c ≤ 0x39#8) || c == 0x46#8 || c == 0x66#8

/-- `nib` (R77): the nibble of a character; 15 for `f` and `F`. It is applied to checked characters only. -/
def nib (c : Byte) : BitVec 4 := if 0x30#8 ≤ c && c ≤ 0x39#8 then (c - 0x30#8).extractLsb' 0 4 else 0xF#4

/-- Byte `k` of `packcode(s)` (R57, R77): character `2k` is the high nibble, character `2k+1` the low one. -/
def packCodeByte (s : List Byte) (k : Nat) : Byte := nib (s.getD (2 * k) 0) ++ nib (s.getD (2 * k + 1) 0)

/-- `packcode(s)` (R77). -/
def packcode (s : List Byte) : List Byte := (List.range codeBytes).map (packCodeByte s)

/-- `checkcode(s)` (R171): the length first, then the characters. -/
def checkcode (s : List Byte) : Except Status Unit :=
  if s.length ≠ codeChars then .error .codeLength
  else if s.all isCodeChar then .ok () else .error .codeChar

/-! ### Flag arrays (R56, R78, R79, R172) -/

/-- The byte whose bit `j` is `f j` (R56). -/
def byteOfBits (f : Nat → Bool) : Byte :=
  (List.range 8).foldl (fun acc j => if f j then acc ||| (1#8 <<< j) else acc) 0

/-- `packflags(f)` (R78): `ceil(n / 8)` bytes, flag `i` at bit `i mod 8` of byte `i div 8`, the rest 0. -/
def packflags (f : List Bool) : List Byte :=
  (List.range ((f.length + 7) / 8)).map fun k => byteOfBits fun j => f.getD (8 * k + j) false

/-- The eight flags of a byte, bit 0 first (R56). -/
def byteFlags (b : Byte) : List Bool := (List.range 8).map b.getLsbD

/-- `unpackflags(d)` (R79). -/
def unpackflags (d : List Byte) : List Bool := d.flatMap byteFlags

/-- `checkflags(f, L)` (R172). -/
def checkflags (f : List Bool) (l : LengthSet) : Except Status Unit :=
  if l.has f.length then .ok () else .error .flagsLength

end Sys2Proof.Machine
end

