-- ==== Sys2Proof/Machine/Ops.lean ====
section
/-! DEFINITION. The operations the meanings share: how a request ends (R84, R241, R253), the checksum recurrence
(R100, R102), framing (R70, R71, R120, R121, R177), the decoder's transition (R140) and reset (R270). -/

namespace Sys2Proof.Machine

open Sys2Proof

/-! ### How a request ends -/

/-- One more response is given. -/
def State.respond (s : State) (r : Response) : State := { s with responses := s.responses ++ [r] }

/-- `return v` (R10): status `OK` and the value. -/
def complete (v : Option Value) (s : State) : Host.Outcome State Fault Refusal := .next (s.respond (.okay v))

/-- `raise Error(e)` (R10, R241, R246): the whole of an error's effect is its status in the response; no state
changes, no value, no trap. This is the machine's one way of taking an exception; there is nothing to return from
(R247). -/
def raiseError (e : Status) (s : State) : Host.Outcome State Fault Refusal := .next (s.respond (.failed e))

/-- An operation that changes no state and whose response is a value or an error status. -/
def reply (r : Except Status Value) (s : State) : Host.Outcome State Fault Refusal :=
  .next (s.respond (match r with | .ok v => .okay (some v) | .error e => .failed e))

/-- `FAULT_OVERFLOW` (R32, R253): the instance is left faulted; there is no response, since it is "not a status"
(log 7). -/
def overflow (s : State) : Host.Outcome State Fault Refusal := .next { s with faulted := true }

/-- Reset (R270): every element of the mutable state takes its reset value and `FAULT_OVERFLOW` is cleared; the
configuration stays; no response is given. Both sides of the request port stay as they are (log 10). -/
def State.resetBlock (s : State) : State :=
  { State.fresh s.params with pending := s.pending, responses := s.responses }

/-! ### Checksum (R100, R102) -/

/-- `ckstep(v, b)` (R100), on naturals as R8 says, in the source's three steps. -/
def ckstep (v : U16) (b : Byte) : U16 :=
  let w1 := (v.toNat <<< 1) + (v.toNat >>> 15)
  let w2 := (w1 ^^^ 0xFFFF) % 2 ^ 16
  let w3 := (w2 + (w2 >>> 8) + b.toNat) % 2 ^ 16
  BitVec.ofNat 16 w3

/-- `ckfold(v, s)` (R102). -/
def ckfold (v : U16) : List Byte → U16
  | [] => v
  | b :: t => ckfold (ckstep v b) t

/-! ### Framing (R70, R71, R120, R121, R177) -/

/-- `esc(b)` (R71). -/
def esc (b : Byte) : List Byte := if b = startByte then [startByte, escapedStart] else [b]

/-- The two checksum bytes on the wire, each escaped, high byte first (R55, R70). -/
def checksumBytes (c : U16) : List Byte := esc (hiByte c) ++ esc (loByte c)

/-- The wire frame of a payload (R70). -/
def wireFrame (p : List Byte) : List Byte :=
  [startByte, startByte] ++ p.flatMap esc ++ checksumBytes (ckfold seed p) ++ [startByte, endByte]

/-- A Frame Encoder: its output buffer and its checksum (R22, R23). -/
structure Encoder where
  out : List Byte
  ck : U16
  deriving DecidableEq, Repr

/-- A fresh Frame Encoder (R33, R177). -/
def freshEncoder : Encoder := { out := [], ck := seed }

/-- The effect of ENC_ADD on an encoder (R120): the start pair if the buffer is empty (R24), the escaped byte, the
checksum of the unescaped byte. -/
def encPush (e : Encoder) (b : Byte) : Encoder :=
  { out := (if e.out = [] then [startByte, startByte] else e.out) ++ esc b, ck := ckstep e.ck b }

/-- What ENC_FRAME returns (R121, R122). -/
def encClose (e : Encoder) : List Byte := e.out ++ checksumBytes e.ck ++ [startByte, endByte]

/-- `frameOf(p)` (R177): what a fresh, private encoder returns for `ENC_ADDS p; ENC_FRAME`. -/
def frameOf (p : List Byte) : List Byte := encClose (p.foldl encPush freshEncoder)

/-! ### The decoder (R25, R140) -/

/-- The 3-bit code of a decoder state (R25). -/
def DecState.code : DecState → BitVec 3
  | .s0 => 0
  | .s1 => 1
  | .s2 => 2
  | .s3 => 3
  | .s4 => 4
  | .s5 => 5

/-- The decoder state of a 3-bit code; 6 and 7 have none (R25). -/
def decStateOf (c : BitVec 3) : Option DecState :=
  match c.toNat with
  | 0 => some .s0
  | 1 => some .s1
  | 2 => some .s2
  | 3 => some .s3
  | 4 => some .s4
  | 5 => some .s5
  | _ => none

/-- The actions on `DEC_BUF` in the cells of R140. -/
inductive BufAction where
  | keep
  | clear
  | appendByte
  | appendStart
  deriving DecidableEq, Repr

/-- The buffer after an action on the byte `b` (R140). -/
def BufAction.apply (a : BufAction) (b : Byte) (buf : List Byte) : List Byte :=
  match a with
  | .keep => buf
  | .clear => []
  | .appendByte => buf ++ [b]
  | .appendStart => buf ++ [startByte]

/-- The action makes the buffer longer (R253). -/
def BufAction.grows : BufAction → Bool
  | .keep | .clear => false
  | .appendByte | .appendStart => true

/-- The transition table of R140: next state and action (its third column is `doneBit`). -/
def decTable (st : DecState) (c : ByteClass) : DecState × BufAction :=
  match st, c with
  | .s0, .start => (.s1, .keep)
  | .s0, .endMark => (.s0, .keep)
  | .s0, .escaped => (.s0, .keep)
  | .s0, .other => (.s0, .keep)
  | .s1, .start => (.s2, .keep)
  | .s1, .endMark => (.s0, .keep)
  | .s1, .escaped => (.s0, .keep)
  | .s1, .other => (.s0, .keep)
  | .s2, .start => (.s2, .keep)
  | .s2, .endMark => (.s3, .appendByte)
  | .s2, .escaped => (.s3, .appendByte)
  | .s2, .other => (.s3, .appendByte)
  | .s3, .start => (.s4, .keep)
  | .s3, .endMark => (.s3, .appendByte)
  | .s3, .escaped => (.s3, .appendByte)
  | .s3, .other => (.s3, .appendByte)
  | .s4, .start => (.s2, .clear)
  | .s4, .endMark => (.s5, .keep)
  | .s4, .escaped => (.s3, .appendStart)
  | .s4, .other => (.s0, .clear)
  | .s5, .start => (.s1, .clear)
  | .s5, .endMark => (.s0, .clear)
  | .s5, .escaped => (.s0, .clear)
  | .s5, .other => (.s0, .clear)

/-- A Frame Decoder as a value, without a capacity: what MSG_DECODE's private decoder is (R201; log 8). -/
structure Decoder where
  st : DecState
  buf : List Byte
  deriving DecidableEq, Repr

/-- A fresh Frame Decoder (R201). -/
def freshDecoder : Decoder := { st := .s0, buf := [] }

/-- `decstep` (R140, R201): the decoder after a wire byte, and `DONE`. -/
def decstep (d : Decoder) (b : Byte) : Decoder × Bool :=
  let cell := decTable d.st (classify b)
  ({ st := cell.1, buf := cell.2.apply b d.buf }, doneBit d.st (classify b))

/-- The block's Frame Decoder consumes the byte `b` of class `c` (R140 to R148): `DEC_STATE` and `DEC_BUF` make the
table's transition and the response is `DONE`. An append past `DEC_BUF_CAP` is `FAULT_OVERFLOW` (R32, R253);
`DEC_STATE` 6 or 7 has no meaning (R25). -/
def consumeByte (c : ByteClass) (b : Byte) (s : State) : Host.Outcome State Fault Refusal :=
  match decStateOf s.decState with
  | none => .fault .decStateUnassigned
  | some st =>
    let cell := decTable st c
    let buf := cell.2.apply b s.decBuf
    if cell.2.grows && exceeds s.params.decBufCap buf.length then overflow s
    else complete (some (.done (doneBit st c))) { s with decState := cell.1.code, decBuf := buf }

end Sys2Proof.Machine
end

