-- ==== Sys2Proof/Machine/Checksum.lean ====
section
/-! DEFINITION. The Checksum unit: CK_INIT, CK_ADD, CK_READ (40_checksum.md). -/

namespace Sys2Proof.Machine

open Sys2Proof

/-- CK_INIT (R103). -/
def execCkInit (s : State) : Host.Outcome State Fault Refusal := complete none { s with ck := seed }

/-- CK_ADD (R104). -/
def execCkAdd (b : Byte) (s : State) : Host.Outcome State Fault Refusal := complete none { s with ck := ckstep s.ck b }

/-- CK_READ (R105). -/
def execCkRead (s : State) : Host.Outcome State Fault Refusal := complete (some (.word s.ck)) s

end Sys2Proof.Machine
end

