-- ==== Sys2Proof/Machine/FrameDecoder.lean ====
section
/-! DEFINITION. The Frame Decoder: DEC_ADD, DEC_FRAME, DEC_RESET (42_frame_decoder.md), and the wire rows of the opcode
table: a byte of each class delivered to it (R73, R140; log 3). -/

namespace Sys2Proof.Machine

open Sys2Proof

/-- DEC_ADD (R141 to R148). -/
def execDecAdd (b : Byte) (s : State) : Host.Outcome State Fault Refusal := consumeByte (classify b) b s

/-- DEC_FRAME (R149). -/
def execDecFrame (s : State) : Host.Outcome State Fault Refusal := complete (some (.bytes s.decBuf)) s

/-- DEC_RESET (R150). -/
def execDecReset (s : State) : Host.Outcome State Fault Refusal :=
  complete none { s with decState := DecState.s0.code, decBuf := [] }

/-- WIRE_START: the column START of R140. -/
def execWireStart (s : State) : Host.Outcome State Fault Refusal := consumeByte .start startByte s

/-- WIRE_END: the column END of R140. -/
def execWireEnd (s : State) : Host.Outcome State Fault Refusal := consumeByte .endMark endByte s

/-- WIRE_ESCAPED_START: the column ESCAPED_START of R140. -/
def execWireEscapedStart (s : State) : Host.Outcome State Fault Refusal := consumeByte .escaped escapedStart s

/-- WIRE_OTHER: the column OTHER of R140, the byte being what is appended (R73). -/
def execWireOther (b : Byte) (s : State) : Host.Outcome State Fault Refusal := consumeByte .other b s

end Sys2Proof.Machine
end

