-- ==== Sys2Proof/Machine/FrameEncoder.lean ====
section
/-! DEFINITION. The Frame Encoder: ENC_ADD, ENC_FRAME (41_frame_encoder.md). -/

namespace Sys2Proof.Machine

open Sys2Proof

/-- The block's own encoder (R22, R23). -/
def State.encoder (s : State) : Encoder := { out := s.encOut, ck := s.encCk }

/-- ENC_ADD (R120), with the bound of R253. -/
def execEncAdd (b : Byte) (s : State) : Host.Outcome State Fault Refusal :=
  let e := encPush s.encoder b
  if exceeds s.params.encOutCap e.out.length then overflow s
  else complete none { s with encOut := e.out, encCk := e.ck }

/-- ENC_FRAME (R121, R122): the finished frame is returned and the encoder takes its reset values; R253 puts the same
bound on the result (log 18). -/
def execEncFrame (s : State) : Host.Outcome State Fault Refusal :=
  let out := encClose s.encoder
  if exceeds s.params.encOutCap out.length then overflow s
  else complete (some (.bytes out)) { s with encOut := [], encCk := seed }

end Sys2Proof.Machine
end

