-- ==== Sys2Proof/Machine/MessageDecode.lean ====
section
/-! DEFINITION. The Message Codec's decoder and Dispatch: MSG_DECODE, MSG_DISPATCH (44_message_decode.md). Every decode
failure is the value `none` with status `OK` (R203, R242). -/

namespace Sys2Proof.Machine

open Sys2Proof

/-- The accepted data lengths of a Result answer, in bytes (R5, R207). -/
def resultLengths : List Nat := [1]

/-- The accepted data lengths of a Change-notification answer, in bytes (R5, R206). -/
def changeLengths : List Nat := [5, 6, 7]

/-- `decodeVariant(code, v, data)` (R204 to R207). -/
def decodeVariant (code : Byte) (v : AnswerVariant) (data : List Byte) : Option Answer :=
  match v with
  | .flagArray accepted => if accepted.has data.length then some (.flags code (unpackflags data)) else none
  | .changeNotify => if changeLengths.contains data.length then some (.change code (unpackflags data)) else none
  | .result => if resultLengths.contains data.length then some (.result code (data.getD 0 0)) else none

/-- The checksum of the bytes of `p` before its last two is those two, compared big-endian (R55, R200 step 3). -/
def checksumMatches (p : List Byte) : Bool :=
  let c := ckfold seed (p.take (p.length - 2))
  hiByte c == p.getD (p.length - 2) 0 && loByte c == p.getD (p.length - 1) 0

/-- `decodePayload(p)` (R200). -/
def decodePayload (cat : Catalog) (p : List Byte) : Option Answer :=
  if p.length < minPayload then none
  else if checksumMatches p then
    let code := p.getD 0 0
    match (Catalog.entry cat code).ans with
    | none => none
    | some v => decodeVariant code v ((p.take (p.length - 2)).drop 1)
  else none

/-- The payload of the first frame that the bytes complete, from the decoder `d` on; the bytes after it are never
examined (R201, R280). -/
def firstFrame (d : Decoder) : List Byte → Option (List Byte)
  | [] => none
  | b :: rest =>
    if (decstep d b).2 then some (decstep d b).1.buf else firstFrame (decstep d b).1 rest

/-- `decodeMessage` (R201): a fresh decoder, its first completed frame decoded. -/
def decodeMessage (cat : Catalog) (raw : List Byte) : Option Answer :=
  match firstFrame freshDecoder raw with
  | none => none
  | some p => decodePayload cat p

/-- MSG_DECODE (R201): no state of the block is read but the catalog, and none is written. -/
def execMsgDecode (raw : List Byte) (s : State) : Host.Outcome State Fault Refusal :=
  complete (some (.answer (decodeMessage s.params.catalog raw))) s

/-- MSG_DISPATCH (R202): the completed frame of the block's decoder, `none` in every state but S5. `DEC_STATE` 6 or 7
has no meaning (R25; log 12). -/
def execMsgDispatch (s : State) : Host.Outcome State Fault Refusal :=
  match decStateOf s.decState with
  | none => .fault .decStateUnassigned
  | some .s5 => complete (some (.answer (decodePayload s.params.catalog s.decBuf))) s
  | some _ => complete (some (.answer none)) s

end Sys2Proof.Machine
end

