-- ==== Sys2Proof/Machine/MessageEncode.lean ====
section
/-! DEFINITION. The Message Codec's encoders: MSG_ENC_NODATA, MSG_ENC_SEL, MSG_ENC_AUTH (43_message_encode.md). They
use a private encoder and change no state (R177). -/

namespace Sys2Proof.Machine

open Sys2Proof

/-- `frameOf(p)` as a response value. -/
def framed (p : List Byte) : Except Status Value := .ok (.bytes (frameOf p))

/-- The response of MSG_ENC_NODATA (R170, R174). -/
def encodeNodata (cat : Catalog) (cmd : Byte) : Except Status Value :=
  if (Catalog.entry cat cmd).noData then framed [cmd] else .error .notInCatalog

/-- The response of MSG_ENC_SEL (R170, R175). -/
def encodeSel (cat : Catalog) (cmd : Byte) : Except Status Value :=
  if (Catalog.entry cat cmd).noDataSel then framed [cmd, selector] else .error .notInCatalog

/-- The FlagsAuth payload (R75). -/
def authPayload (cmd : Byte) (code : List Byte) (flags : List Bool) : List Byte :=
  [cmd] ++ packcode code ++ packflags flags

/-- The response of MSG_ENC_AUTH (R170 to R173, R176): the checks in the order of R173. -/
def encodeAuth (cat : Catalog) (cmd : Byte) (code : List Byte) (flags : List Bool) : Except Status Value :=
  match (Catalog.entry cat cmd).flagsAuth with
  | none => .error .notInCatalog
  | some l =>
    match checkcode code with
    | .error e => .error e
    | .ok () =>
      match checkflags flags l with
      | .error e => .error e
      | .ok () => framed (authPayload cmd code flags)

/-- MSG_ENC_NODATA (R174). -/
def execMsgEncNodata (cmd : Byte) (s : State) : Host.Outcome State Fault Refusal :=
  reply (encodeNodata s.params.catalog cmd) s

/-- MSG_ENC_SEL (R175). -/
def execMsgEncSel (cmd : Byte) (s : State) : Host.Outcome State Fault Refusal :=
  reply (encodeSel s.params.catalog cmd) s

/-- MSG_ENC_AUTH (R176). -/
def execMsgEncAuth (cmd : Byte) (code : List Byte) (flags : List Bool) (s : State) :
    Host.Outcome State Fault Refusal :=
  reply (encodeAuth s.params.catalog cmd code flags) s

end Sys2Proof.Machine
end

