-- ==== Sys2Proof/Machine/Dispatch.lean ====
section
/-! DEFINITION. One arm per instruction, each one call of its meaning. -/

namespace Sys2Proof.Machine

open Sys2Proof

def exec (i : Instr) (s : State) : Host.Outcome State Fault Refusal :=
  match i with
  | .ckInit => Sys2Proof.Machine.execCkInit s
  | .ckAdd b => Sys2Proof.Machine.execCkAdd b s
  | .ckRead => Sys2Proof.Machine.execCkRead s
  | .encAdd b => Sys2Proof.Machine.execEncAdd b s
  | .encFrame => Sys2Proof.Machine.execEncFrame s
  | .decAdd b => Sys2Proof.Machine.execDecAdd b s
  | .decFrame => Sys2Proof.Machine.execDecFrame s
  | .decReset => Sys2Proof.Machine.execDecReset s
  | .msgEncNodata cmd => Sys2Proof.Machine.execMsgEncNodata cmd s
  | .msgEncSel cmd => Sys2Proof.Machine.execMsgEncSel cmd s
  | .msgEncAuth cmd code flags => Sys2Proof.Machine.execMsgEncAuth cmd code flags s
  | .msgDecode raw => Sys2Proof.Machine.execMsgDecode raw s
  | .msgDispatch => Sys2Proof.Machine.execMsgDispatch s
  | .wireStart => Sys2Proof.Machine.execWireStart s
  | .wireEnd => Sys2Proof.Machine.execWireEnd s
  | .wireEscapedStart => Sys2Proof.Machine.execWireEscapedStart s
  | .wireOther b => Sys2Proof.Machine.execWireOther b s

end Sys2Proof.Machine
end

