-- ==== Sys2Proof/Machine/Step.lean ====
section
/-! DEFINITION. One step: the block takes the next event the requester (or the reset line) has sent and performs it
whole (R4, R54, R59). -/

namespace Sys2Proof.Machine

open Sys2Proof

/-- The next event is taken off the port (R59). -/
def State.consume (s : State) (rest : List Event) : State := { s with pending := rest }

/-- One step. A reset pulse resets (R270), a faulted instance performs nothing else (R253). Otherwise the next packet is
performed: the instruction the port accepts, or `E_ILLEGAL_OP` (R82, R83). With nothing pending the block stays as it
is: it never initiates anything (R283; log 9). -/
def step (s : State) : Host.Outcome State Fault Refusal :=
  match s.pending with
  | .reset :: rest => .next (s.consume rest).resetBlock
  | .packet p :: rest =>
    if s.faulted then .fault .faultOverflow
    else match accept s.params.seqCap p with
      | .ok i => exec i (s.consume rest)
      | .error _ => raiseError .illegalOp (s.consume rest)
  | [] => if s.faulted then .fault .faultOverflow else .next s

/-- The instruction of the opcode table's word `w` is sent to the block ahead of everything else (log 1, log 4). -/
def State.withFetchWord (s : State) (nbits w : Nat) : State :=
  { s with pending := .packet (tablePacket nbits w) :: s.pending }

/-- The requester sends a program, a finite list of requests, to be performed in order after what is pending (R284). -/
def State.load (s : State) (prog : List Packet) : State :=
  { s with pending := s.pending ++ prog.map .packet }

end Sys2Proof.Machine
end

