-- ==== Sys2Proof/Machine/Answers.lean ====
section
/-! DEFINITION. The result table (R208, R209) and the accessors of an answer (R210 to R214). They are functions on the
value a response carries, not requests. -/

namespace Sys2Proof.Machine

open Sys2Proof

/-- Result code to kind (R208; log 15). -/
def resultKind (r : Byte) : ResultKind :=
  match r.toNat with
  | 0x00 => .ok
  | 0x01 => .userCodeNotFound
  | 0x02 => .noAccess
  | 0x03 => .userDoesNotExist
  | 0x04 => .userAlreadyExists
  | 0x05 => .wrongOrDuplicateCode
  | 0x06 => .telephoneCodeExists
  | 0x07 => .unchangedCode
  | 0x08 => .otherError
  | 0x11 => .canForceArm
  | 0x12 => .cannotArm
  | 0xFF => .commandAccepted
  | _ => .unknown

/-- Kind to text (R209): two texts are the source's, the others the parameter `RESULT_TEXT`. -/
def resultText (t : ResultTexts) : ResultKind → String
  | .ok => t.ok
  | .userCodeNotFound => t.userCodeNotFound
  | .noAccess => t.noAccess
  | .userDoesNotExist => t.userDoesNotExist
  | .userAlreadyExists => t.userAlreadyExists
  | .wrongOrDuplicateCode => t.wrongOrDuplicateCode
  | .telephoneCodeExists => t.telephoneCodeExists
  | .unchangedCode => t.unchangedCode
  | .otherError => t.otherError
  | .canForceArm => t.canForceArm
  | .cannotArm => t.cannotArm
  | .commandAccepted => "Command accepted"
  | .unknown => "Unknown result code"

/-- The command code that selected the variant (R35). -/
def Answer.code : Answer → Byte
  | .flags c _ => c
  | .change c _ => c
  | .result c _ => c

/-- `FLAGS(a)` (R210). -/
def Answer.flagList : Answer → Option (List Bool)
  | .flags _ f => some f
  | .change _ f => some f
  | .result _ _ => none

/-- `FLAG(a, i)` (R211). -/
def Answer.flag (a : Answer) (i : Nat) : Option Bool :=
  match a.flagList with
  | some f => f[i]?
  | none => none

/-- `CHANGED(a, k)` (R212), `k` a command code. -/
def Answer.changed (a : Answer) (k : Byte) : Option Bool :=
  match a with
  | .change _ _ => a.flag k.toNat
  | .flags _ _ => none
  | .result _ _ => none

/-- The named predicates (R212): `CHANGED(a, k)` for the codes `k` the catalog names. -/
def Answer.namedChanges (cat : Catalog) (a : Answer) : List (Byte × Option Bool) :=
  cat.named.map fun k => (k, a.changed k)

/-- `RESULT_KIND(a)` (R213). -/
def Answer.resultKind? : Answer → Option ResultKind
  | .result _ r => some (resultKind r)
  | .flags _ _ => none
  | .change _ _ => none

/-- `RESULT_TEXT(a)` (R214). -/
def Answer.resultText? (t : ResultTexts) (a : Answer) : Option String := a.resultKind?.map (resultText t)

end Sys2Proof.Machine
end

