-- ==== Sys2Proof/Machine/Assembler.lean ====
section
/-! DEFINITION. The written form of a request (R80, R85): its mnemonic and operands, and its word as three hex digits
(log 20). The wire rows have no written form. -/

namespace Sys2Proof.Machine

open Sys2Proof

/-- A hex digit. -/
def hexDigit (n : Nat) : Char := if n < 10 then Char.ofNat (48 + n) else Char.ofNat (55 + n)

/-- Two hex digits without prefix, as wire bytes are written (R8). -/
def hexByte (b : Byte) : String := String.ofList [hexDigit (b.toNat / 16), hexDigit (b.toNat % 16)]

/-- A request word as three hex digits (R80). -/
def hexWord (w : BitVec 12) : String :=
  String.ofList [hexDigit (w.toNat / 256), hexDigit (w.toNat / 16 % 16), hexDigit (w.toNat % 16)]

/-- Words joined by a separator. -/
def joinWith (sep : String) : List String → String
  | [] => ""
  | [w] => w
  | w :: rest => w ++ sep ++ joinWith sep rest

/-- A byte operand: `0xHH` (R85). -/
def asmByte (b : Byte) : String := "0x" ++ hexByte b

/-- `CODE` as a double-quoted string of its characters (R85). -/
def asmCode (code : List Byte) : String := "\"" ++ String.ofList (code.map fun c => Char.ofNat c.toNat) ++ "\""

/-- The indices of the true flags, from `k` on. -/
def trueIndices (k : Nat) : List Bool → List Nat
  | [] => []
  | true :: rest => k :: trueIndices (k + 1) rest
  | false :: rest => trueIndices (k + 1) rest

/-- `FLAGS`: the indices of the true flags in braces, a slash, how many flags there are (R85). -/
def asmFlags (flags : List Bool) : String :=
  String.ofList [Char.ofNat 123] ++ joinWith ", " ((trueIndices 0 flags).map fun n => String.ofList (Nat.toDigits 10 n))
    ++ String.ofList [Char.ofNat 125] ++ "/" ++ String.ofList (Nat.toDigits 10 flags.length)

/-- `RAW`: a bracketed list of hex bytes (R85). -/
def asmRaw (raw : List Byte) : String := "[" ++ joinWith " " (raw.map hexByte) ++ "]"

/-- A request as R85 writes it. -/
def asm : Instr → Option String
  | .ckInit => some "CK_INIT"
  | .ckAdd b => some ("CK_ADD " ++ asmByte b)
  | .ckRead => some "CK_READ"
  | .encAdd b => some ("ENC_ADD " ++ asmByte b)
  | .encFrame => some "ENC_FRAME"
  | .decAdd b => some ("DEC_ADD " ++ asmByte b)
  | .decFrame => some "DEC_FRAME"
  | .decReset => some "DEC_RESET"
  | .msgEncNodata cmd => some ("MSG_ENC_NODATA " ++ asmByte cmd)
  | .msgEncSel cmd => some ("MSG_ENC_SEL " ++ asmByte cmd)
  | .msgEncAuth cmd code flags =>
    some ("MSG_ENC_AUTH " ++ asmByte cmd ++ ", " ++ asmCode code ++ ", " ++ asmFlags flags)
  | .msgDecode raw => some ("MSG_DECODE " ++ asmRaw raw)
  | .msgDispatch => some "MSG_DISPATCH"
  | .wireStart | .wireEnd | .wireEscapedStart | .wireOther _ => none

/-- A pseudo-operation as R86 writes it. -/
def asmPseudo : Pseudo → String
  | .ckAdds bs => "CK_ADDS " ++ asmRaw bs
  | .encAdds bs => "ENC_ADDS " ++ asmRaw bs
  | .decAdds bs => "DEC_ADDS " ++ asmRaw bs

end Sys2Proof.Machine
end

