-- ==== Sys2Proof/Machine/Boot.lean ====
section
/-! DEFINITION. What must hold before the first request (R273): the configuration is checked and fixed, and a setup the
spec gives no meaning to is refused. -/

namespace Sys2Proof.Machine

open Sys2Proof

/-- A set of lengths as a configuration writes it; the empty set is malformed (D21). -/
def lengthSet : List Nat → Option LengthSet
  | [] => none
  | n :: ns => some { first := n, more := ns }

/-- One more encoding shape of an entry; a second FlagsAuth or an empty length set is malformed (D21). -/
def addShape (e : Entry) : RawShape → Option Entry
  | .noData => some { e with noData := true }
  | .noDataSel => some { e with noDataSel := true }
  | .flagsAuth lengths =>
    match e.flagsAuth with
    | some _ => none
    | none => (lengthSet lengths).map fun l => { e with flagsAuth := some l }

/-- An answer variant; an empty length set is malformed (D21). -/
def loadVariant : RawVariant → Option AnswerVariant
  | .flagArray lengths => (lengthSet lengths).map .flagArray
  | .changeNotify => some .changeNotify
  | .result => some .result

/-- The encoding shapes of a row, on top of the entry `e`. -/
def loadShapes (e : Entry) : List RawShape → Option Entry
  | [] => some e
  | sh :: rest =>
    match addShape e sh with
    | none => none
    | some e' => loadShapes e' rest

/-- The entry of a row (R30); `none` where the row is malformed. -/
def loadRow (r : RawRow) : Option Entry :=
  match loadShapes {} r.enc, r.ans with
  | none, _ => none
  | some e, none => some e
  | some e, some v => (loadVariant v).map fun a => { e with ans := some a }

/-- The rows of a catalog; a code that appears twice is malformed ("every code appears once", D21). -/
def loadRows (seen : List Byte) : List RawRow → Option (List (Byte × Entry))
  | [] => some []
  | r :: rest =>
    if seen.contains r.code then none
    else match loadRow r, loadRows (r.code :: seen) rest with
      | some e, some more => some ((r.code, e) :: more)
      | _, _ => none

/-- The tables of a configuration; `none` where its catalog is malformed (D21). -/
def loadTables (rows : List RawRow) (named : List Byte) (texts : ResultTexts) : Option Tables :=
  (loadRows [] rows).map fun entries => { catalog := { rows := entries, named := named }, resultTexts := texts }

/-- The instance ready for its first request: reset, with its configuration fixed (R270, R273). Two requesters on one
instance (R60, item I6) and a malformed catalog (R273, item I3) are refused (log 14). An instance that no requester
is attached to is accepted (DESIGN CHOICE, log 25). This is a system of one instance; several that share their tables are
`bootSystem`'s. -/
def boot (c : Setup) : Except Refusal State :=
  if 1 < c.requesters then .error .concurrentRequesters
  else match loadTables c.rows c.named c.resultTexts with
    | none => .error .malformedCatalog
    | some t =>
      .ok (State.fresh
        { toTables := t, decBufCap := c.decBufCap, encOutCap := c.encOutCap, seqCap := c.seqCap })

end Sys2Proof.Machine
end

