-- ==== Sys2Proof/Machine/Instances.lean ====
section
/-! DEFINITION. Several instances side by side (R251): each has its own state tuple; CATALOG and RESULT_TABLE are held once
for all of them, since they are process-wide (R30, R62), so no two instances of a system can differ in them; no instance
reads or writes another's state. There are no instance identifiers; the place in the list stands for the requester's own
wire to an instance (log 19). That the capacities are each instance's own is the model's reading of R32 (log 24). -/

namespace Sys2Proof.Machine

open Sys2Proof

/-- What an instance of a system has of its own: a `State` without the tables. -/
structure Member where
  ck : U16
  encCk : U16
  encOut : List Byte
  decState : BitVec 3
  decBuf : List Byte
  faulted : Bool
  caps : Caps
  pending : List Event
  responses : List Response
  deriving DecidableEq, Repr

/-- The instance under the tables of its system: the state that its step runs on. -/
def Member.under (m : Member) (t : Tables) : State where
  ck := m.ck
  encCk := m.encCk
  encOut := m.encOut
  decState := m.decState
  decBuf := m.decBuf
  faulted := m.faulted
  params := { toTables := t, toCaps := m.caps }
  pending := m.pending
  responses := m.responses

/-- What is the instance's own in a state. -/
def State.member (s : State) : Member where
  ck := s.ck
  encCk := s.encCk
  encOut := s.encOut
  decState := s.decState
  decBuf := s.decBuf
  faulted := s.faulted
  caps := s.params.toCaps
  pending := s.pending
  responses := s.responses

/-- A system of instances, each either running or stopped by its own fault, and the tables they share (R251). -/
structure Instances where
  tables : Tables
  members : List (Host.Outcome Member Fault Refusal)

/-- What an instance keeps of the outcome of its step. -/
def ownOutcome : Host.Outcome State Fault Refusal → Host.Outcome Member Fault Refusal
  | .next s => .next s.member
  | .fault f => .fault f
  | .refused r => .refused r

/-- One step of one instance under the tables `t`; an instance that has stopped stays stopped. -/
def advance (t : Tables) : Host.Outcome Member Fault Refusal → Host.Outcome Member Fault Refusal
  | .next m => ownOutcome (step (m.under t))
  | .fault f => .fault f
  | .refused r => .refused r

/-- The instance at place `k` takes a step. -/
def stepAt (sys : Instances) (k : Nat) : Instances :=
  { sys with members := sys.members.modify k (advance sys.tables) }

/-- The system ready for its first request: the tables loaded once, every instance reset (R251, R270, R273). An instance
with two requesters and a malformed catalog are refused, and one with none accepted, as by `boot` (log 14, log 25). -/
def bootSystem (c : SystemSetup) : Except Refusal Instances :=
  if c.members.any fun m => 1 < m.requesters then .error .concurrentRequesters
  else match loadTables c.rows c.named c.resultTexts with
    | none => .error .malformedCatalog
    | some t =>
      .ok { tables := t,
            members := c.members.map fun m => .next (State.fresh { toTables := t, toCaps := m.toCaps }).member }

end Sys2Proof.Machine
end

