-- ==== Sys2Proof/Safety.lean ====
section
/-! DEFINITION. The terms in which claims about the machine are made: what a run shows (R284), which states are sound
(R23, R25, R27, R32), which requests are illegal (R82) and which configurations malformed (D21), and the rows of the
transition table (R140) written out. -/

namespace Sys2Proof.Machine

open Sys2Proof

/-! ### What a run shows (R284) -/

/-- The mutable state of R20. -/
structure Tuple where
  ck : U16
  encCk : U16
  encOut : List Byte
  decState : BitVec 3
  decBuf : List Byte
  deriving DecidableEq, Repr

/-- The mutable state of an instance (R20). -/
def State.tuple (s : State) : Tuple :=
  { ck := s.ck, encCk := s.encCk, encOut := s.encOut, decState := s.decState, decBuf := s.decBuf }

/-- The observation of a run (R284). -/
inductive Observation where
  | final (responses : List Response) (state : Tuple)
  | faultOverflow
  deriving DecidableEq, Repr

/-- What an instance shows at the end of a run (R284). -/
def State.observe (s : State) : Observation :=
  if s.faulted then .faultOverflow else .final s.responses s.tuple

/-- What the outcome of a run shows (R284); a run that stops for want of a meaning shows nothing. -/
def observe : Host.Outcome State Fault Refusal → Option Observation
  | .next s => some s.observe
  | .fault .faultOverflow => some .faultOverflow
  | .fault .decStateUnassigned | .fault .statusReserved => none
  | .refused _ => none

/-- The run of a program, a finite list of requests, from a start state (R284): one step a request. -/
def perform (prog : List Packet) (s : State) : Host.Outcome State Fault Refusal :=
  Host.Core.run Sys2Proof.core prog.length (s.load prog)

/-- The requests that DEC_ADD each byte of a list in order (`DEC_ADDS`, R86). -/
def decAdds (bs : List Byte) : List Packet := bs.map fun b => encode (.decAdd b)

/-- The requests that CK_ADD each byte of a list in order (`CK_ADDS`, R86). -/
def ckAdds (bs : List Byte) : List Packet := bs.map fun b => encode (.ckAdd b)

/-- The requests that ENC_ADD each byte of a list in order (`ENC_ADDS`, R86). -/
def encAdds (bs : List Byte) : List Packet := bs.map fun b => encode (.encAdd b)

/-- The response of a DEC_ADD that gives `DONE = d`. -/
def doneResponse (d : Bool) : Response := { status := .ok, value := some (.done d) }

/-- The request ends with status `OK` and the value `v` in the state `s`, and nothing else changes. -/
def returns (v : Option Value) (s : State) : Host.Outcome State Fault Refusal :=
  .next { s with responses := s.responses ++ [{ status := .ok, value := v }] }

/-- The request ends with the error status `e`, no value and no state change (R241). -/
def fails (e : Status) (s : State) : Host.Outcome State Fault Refusal :=
  .next { s with responses := s.responses ++ [{ status := e, value := none }] }

/-- The instance is idle, unfaulted, and no capacity bounds its buffers. -/
structure Ready (s : State) : Prop where
  idle : s.pending = []
  live : s.faulted = false
  decUnbounded : s.params.decBufCap = none
  encUnbounded : s.params.encOutCap = none

/-! ### Sound states -/

/-- The encoder's buffer and checksum are what some payload `p` puts there: nothing and the seed, or the start pair,
`p` escaped, and the checksum of `p` (R22 to R24). -/
def EncoderSound (s : State) : Prop :=
  (s.encOut = [] ∧ s.encCk = 0x147A#16) ∨
    ∃ p, p ≠ [] ∧ s.encOut = [0xFE#8, 0xFE#8] ++ p.flatMap esc ∧ s.encCk = ckfold 0x147A#16 p

/-- `DEC_STATE` is one of the six codes (R25), the buffer is empty in S0 to S2 and not in S3 to S5 (R27), and its first
byte is never `0xFE` (R144). -/
def DecoderSound (s : State) : Prop :=
  s.decState.toNat ≤ 5 ∧ (s.decState.toNat ≤ 2 → s.decBuf = []) ∧
    (3 ≤ s.decState.toNat → s.decBuf ≠ []) ∧ s.decBuf.head? ≠ some 0xFE#8

/-- No buffer is longer than its capacity (R32), and only a bounded instance is faulted (R253). -/
def CapacitySound (s : State) : Prop :=
  (∀ n, s.params.decBufCap = some n → s.decBuf.length ≤ n) ∧
    (∀ n, s.params.encOutCap = some n → s.encOut.length ≤ n) ∧
    (s.faulted = true → s.params.decBufCap ≠ none ∨ s.params.encOutCap ≠ none)

/-- The invariant of every state that a run from reset reaches. -/
structure Sound (s : State) : Prop where
  encoder : EncoderSound s
  decoder : DecoderSound s
  capacity : CapacitySound s

/-! ### Illegal requests (R82) -/

/-- R82's list, on the request word as a number: `OP` is the word div 256 and `DATA` the word mod 256 (R80). -/
def PortIllegal (r : Request) : Prop :=
  13 ≤ r.word.toNat / 256 ∨
    (r.word.toNat / 256 ∈ [0x0, 0x2, 0x4, 0x6, 0x7, 0xB, 0xC] ∧ r.word.toNat % 256 ≠ 0) ∨
    (r.word.toNat / 256 ≠ 0xB ∧ r.raw ≠ none) ∨ (r.word.toNat / 256 = 0xB ∧ r.raw = none) ∨
    (r.word.toNat / 256 ≠ 0xA ∧ (r.code ≠ none ∨ r.flags ≠ none)) ∨
    (r.word.toNat / 256 = 0xA ∧ (r.code = none ∨ r.flags = none))

/-- The block answers the request `r` with `E_ILLEGAL_OP` and changes nothing else (R82, R241). -/
def AnsweredIllegal (r : Request) : Prop :=
  ∀ (s : State) (rest : List Event), s.pending = .packet (.request r) :: rest → s.faulted = false →
    step s = .next { s with pending := rest, responses := s.responses ++ [{ status := .illegalOp, value := none }] }

/-! ### Malformed configurations (D21) -/

/-- The shape is a FlagsAuth. -/
def RawShape.isAuth : RawShape → Bool
  | .flagsAuth _ => true
  | .noData => false
  | .noDataSel => false

/-- A row that D21 rules out: two FlagsAuth, or an empty length set. -/
def RowMalformed (r : RawRow) : Prop :=
  2 ≤ (r.enc.filter RawShape.isAuth).length ∨ .flagsAuth [] ∈ r.enc ∨ r.ans = some (.flagArray [])

/-- A catalog that D21 rules out: a malformed row, or a code that appears twice. -/
def CatalogMalformed (rows : List RawRow) : Prop :=
  (∃ r ∈ rows, RowMalformed r) ∨ ¬ (rows.map RawRow.code).Nodup

/-! ### The transition table (R140) -/

/-- The instruction delivers the wire byte `b` to the Frame Decoder: DEC_ADD, or the wire row of the byte. -/
def Delivers (i : Instr) (b : Byte) : Prop :=
  i = .decAdd b ∨ (i = .wireStart ∧ b = 0xFE#8) ∨ (i = .wireEnd ∧ b = 0x0D#8) ∨
    (i = .wireEscapedStart ∧ b = 0xF0#8) ∨ (i = .wireOther b ∧ b ≠ 0xFE#8 ∧ b ≠ 0x0D#8 ∧ b ≠ 0xF0#8)

/-- The state after a byte: `DEC_STATE`, `DEC_BUF`, and one more response with `DONE`; nothing else changes. -/
def afterByte (s : State) (code : BitVec 3) (buf : List Byte) (d : Bool) : Host.Outcome State Fault Refusal :=
  .next { s with decState := code, decBuf := buf, responses := s.responses ++ [doneResponse d] }

/-- The character is one of those R171 lists: `0x30` to `0x39`, `0x46`, `0x66`. -/
def AllowedChar (c : Byte) : Prop := (0x30 ≤ c.toNat ∧ c.toNat ≤ 0x39) ∨ c.toNat = 0x46 ∨ c.toNat = 0x66

/-- `nib` of R77 as a number: the digit's value, 15 for `f` and `F`. -/
def nibbleOf (c : Byte) : Nat := if c.toNat ≤ 0x39 then c.toNat - 0x30 else 15

/-- The buffer `buf` is within `DEC_BUF_CAP`. -/
def DecFits (s : State) (buf : List Byte) : Prop := ∀ n, s.params.decBufCap = some n → buf.length ≤ n

/-- The encoder output `out` is within `ENC_OUT_CAP`. -/
def EncFits (s : State) (out : List Byte) : Prop := ∀ n, s.params.encOutCap = some n → out.length ≤ n

/-- Delivering `b` would append to `DEC_BUF`, and the longer buffer is past `DEC_BUF_CAP` (R253). -/
def DecOverflows (s : State) (b : Byte) : Prop :=
  ((s.decState = 2 ∨ s.decState = 3) ∧ b ≠ 0xFE#8 ∧ ¬ DecFits s (s.decBuf ++ [b])) ∨
    (s.decState = 4 ∧ b = 0xF0#8 ∧ ¬ DecFits s (s.decBuf ++ [0xFE#8]))

/-- What ENC_ADD makes of the output buffer (R120). -/
def encOutAfter (out : List Byte) (b : Byte) : List Byte :=
  (if out = [] then [0xFE#8, 0xFE#8] else out) ++ (if b = 0xFE#8 then [0xFE#8, 0xF0#8] else [b])

/-- What ENC_FRAME returns (R121). -/
def closedFrame (out : List Byte) (ck : U16) : List Byte :=
  out ++ esc (ck.extractLsb' 8 8) ++ esc (ck.extractLsb' 0 8) ++ [0xFE#8, 0x0D#8]

/-- The wire frame of R70, in the spec's own terms. -/
def frameOnWire (p : List Byte) : List Byte :=
  [0xFE#8, 0xFE#8] ++ p.flatMap esc ++ esc ((ckfold 0x147A#16 p).extractLsb' 8 8) ++
    esc ((ckfold 0x147A#16 p).extractLsb' 0 8) ++ [0xFE#8, 0x0D#8]

/-- A payload followed by its checksum bytes, high byte first (R76). -/
def withChecksum (p : List Byte) (c : U16) : List Byte := p ++ [c.extractLsb' 8 8, c.extractLsb' 0 8]

/-- Delivering `b` with the instruction `i` follows the rows of R140 and rules R142 to R148; where the row appends,
the longer buffer is within the capacity. -/
def FollowsTable (i : Instr) (b : Byte) : Prop :=
  ∀ s : State,
    (s.decState = 0 → b = 0xFE#8 → exec i s = afterByte s 1 s.decBuf false) ∧
    (s.decState = 0 → b ≠ 0xFE#8 → exec i s = afterByte s 0 s.decBuf false) ∧
    (s.decState = 1 → b = 0xFE#8 → exec i s = afterByte s 2 s.decBuf false) ∧
    (s.decState = 1 → b ≠ 0xFE#8 → exec i s = afterByte s 0 s.decBuf false) ∧
    (s.decState = 2 → b = 0xFE#8 → exec i s = afterByte s 2 s.decBuf false) ∧
    (s.decState = 2 → b ≠ 0xFE#8 → DecFits s (s.decBuf ++ [b]) →
      exec i s = afterByte s 3 (s.decBuf ++ [b]) false) ∧
    (s.decState = 3 → b = 0xFE#8 → exec i s = afterByte s 4 s.decBuf false) ∧
    (s.decState = 3 → b ≠ 0xFE#8 → DecFits s (s.decBuf ++ [b]) →
      exec i s = afterByte s 3 (s.decBuf ++ [b]) false) ∧
    (s.decState = 4 → b = 0xFE#8 → exec i s = afterByte s 2 [] false) ∧
    (s.decState = 4 → b = 0x0D#8 → exec i s = afterByte s 5 s.decBuf true) ∧
    (s.decState = 4 → b = 0xF0#8 → DecFits s (s.decBuf ++ [0xFE#8]) →
      exec i s = afterByte s 3 (s.decBuf ++ [0xFE#8]) false) ∧
    (s.decState = 4 → b ≠ 0xFE#8 → b ≠ 0x0D#8 → b ≠ 0xF0#8 → exec i s = afterByte s 0 [] false) ∧
    (s.decState = 5 → b = 0xFE#8 → exec i s = afterByte s 1 [] false) ∧
    (s.decState = 5 → b ≠ 0xFE#8 → exec i s = afterByte s 0 [] false)

end Sys2Proof.Machine
end

