-- ==== Sys2Proof/Certificates/Slice0/Obligations.lean ====
section
/-! DEFINITION. The statements for the provers. `R<n>` is a numbered rule of spec/; where a statement rests on a choice of
the model or on an inference that the spec marks as its own, its docstring says so. -/

open Sys2Proof Sys2Proof.Machine

/-! ### Encodings -/

/-- Decode and encode agree on every well-formed instruction, with every operand (R73, R80, R81). -/
def Obligations.EncodeThenDecode : Prop :=
  ∀ i : Instr, WellFormed i → decode (encode i) = .ok i

/-- A packet that decodes is the encoding of the well-formed instruction it decodes to: no two packets share a
meaning. -/
def Obligations.DecodeThenEncode : Prop :=
  ∀ (p : Packet) (i : Instr), decode p = .ok i → WellFormed i ∧ encode i = p

/-- One word of every row of the opcode table, its bits written out from R73 and R81, decodes to its row. The model's
choices in it: that a table word of 8 bits is a wire byte and one of 16 a request word (log 17), and that the words 0xA80
and 0xB00 have their sequence operands present and empty (log 4). -/
def Obligations.OpcodeMapWordsDecode : Prop :=
  decodeTableWord 16 0x000 = some .ckInit ∧ decodeTableWord 16 0x1E0 = some (.ckAdd 0xE0) ∧
  decodeTableWord 16 0x200 = some .ckRead ∧ decodeTableWord 16 0x3FE = some (.encAdd 0xFE) ∧
  decodeTableWord 16 0x400 = some .encFrame ∧ decodeTableWord 16 0x50D = some (.decAdd 0x0D) ∧
  decodeTableWord 16 0x600 = some .decFrame ∧ decodeTableWord 16 0x700 = some .decReset ∧
  decodeTableWord 16 0x80A = some (.msgEncNodata 0x0A) ∧ decodeTableWord 16 0x917 = some (.msgEncSel 0x17) ∧
  decodeTableWord 16 0xA80 = some (.msgEncAuth 0x80 [] []) ∧ decodeTableWord 16 0xB00 = some (.msgDecode []) ∧
  decodeTableWord 16 0xC00 = some .msgDispatch ∧ decodeTableWord 8 0xFE = some .wireStart ∧
  decodeTableWord 8 0x0D = some .wireEnd ∧ decodeTableWord 8 0xF0 = some .wireEscapedStart ∧
  decodeTableWord 8 0x33 = some (.wireOther 0x33)

/-- When the next pending packet decodes to `i` and no operand is over-long, a step takes the packet off the port and is
exec of `i` there (log 1: the pending list is the model's). -/
def Obligations.StepRunsDecodedInstruction : Prop :=
  ∀ (s : State) (p : Packet) (rest : List Event) (i : Instr),
    s.pending = .packet p :: rest → s.faulted = false → decode p = .ok i →
    (∀ r, p = .request r → r.tooLong s.params.seqCap = false) →
    step s = exec i { s with pending := rest }

/-- R82: a request with a reserved `OP`, a non-zero reserved `DATA`, or a missing or extra sequence operand is answered
with `E_ILLEGAL_OP` and changes no state; every other request decodes to an instruction. -/
def Obligations.IllegalRequestAnsweredIllegalOp : Prop :=
  (∀ r : Request, PortIllegal r → AnsweredIllegal r) ∧
  (∀ r : Request, ¬ PortIllegal r → ∃ i, decodeRequest r = .ok i ∧ WellFormed i)

/-- R83: a sequence operand longer than `SEQ_CAP` is refused before the operation starts, with `E_ILLEGAL_OP`. -/
def Obligations.OverlongOperandRefused : Prop :=
  ∀ (n : Nat) (r : Request) (s : State) (rest : List Event),
    s.params.seqCap = some n →
    ((∃ l, r.raw = some l ∧ n < l.length) ∨ (∃ l, r.code = some l ∧ n < l.length) ∨
      (∃ f, r.flags = some f ∧ n < f.length)) →
    s.pending = .packet (.request r) :: rest → s.faulted = false →
    step s = fails .illegalOp { s with pending := rest }

/-! ### Checksum unit -/

/-- R103: CK_INIT puts 0x147A into CK and changes nothing else; its word is 000; any other `DATA` is `E_ILLEGAL_OP`. -/
def Obligations.CkInitSetsSeed : Prop :=
  (∀ s : State, exec .ckInit s = returns none { s with ck := 0x147A#16 }) ∧
  decodeRequest { word := 0x000#12 } = .ok .ckInit ∧
  (∀ d : Byte, d ≠ 0 → AnsweredIllegal { word := 0x0#4 ++ d })

/-- R104: CK_ADD puts ckstep(CK, b) into CK and changes nothing else; every `DATA` is legal; the corner cases. -/
def Obligations.CkAddStepsChecksum : Prop :=
  (∀ (b : Byte) (s : State), exec (.ckAdd b) s = returns none { s with ck := ckstep s.ck b }) ∧
  (∀ b : Byte, decodeRequest { word := 0x1#4 ++ b } = .ok (.ckAdd b)) ∧
  (∀ b : Byte, ckstep 0xFFFF#16 b = b.setWidth 16) ∧ ckstep 0x8000#16 0x00#8 = 0x00FD#16 ∧
  ckstep 0x7FFF#16 0x00#8 = 0x0001#16 ∧ ckstep 0x0000#16 0xFF#8 = 0x01FD#16 ∧ ckstep 0x147A#16 0xE0#8 = 0xD8C2#16

/-- R105: CK_READ returns CK and changes no state; its word is 200; any other `DATA` is `E_ILLEGAL_OP`; the example. -/
def Obligations.CkReadReturnsChecksum : Prop :=
  (∀ s : State, exec .ckRead s = returns (some (.word s.ck)) s) ∧
  decodeRequest { word := 0x200#12 } = .ok .ckRead ∧
  (∀ d : Byte, d ≠ 0 → AnsweredIllegal { word := 0x2#4 ++ d }) ∧
  ckfold 0x147A#16 [0xE0, 0x12, 0x34, 0xFF, 0xFF] = 0x8A9B#16

/-- R100: ckstep in the source's three steps, on numbers. -/
def Obligations.CkstepInThreeSteps : Prop :=
  ∀ (v : U16) (b : Byte),
    (ckstep v b).toNat =
      (((v.toNat * 2 + v.toNat / 32768) ^^^ 0xFFFF) % 65536 + ((v.toNat * 2 + v.toNat / 32768) ^^^ 0xFFFF) % 65536 / 256
        + b.toNat) % 65536

/-- The spec's own inference R101: ckstep is the complemented left rotation, plus its high byte, plus the byte. -/
def Obligations.CkstepIsComplementedRotation : Prop :=
  ∀ (v : U16) (b : Byte),
    let r : U16 := (v.extractLsb' 0 15 ++ v.extractLsb' 15 1) ^^^ 0xFFFF#16
    ckstep v b = r + (r.extractLsb' 8 8).setWidth 16 + b.setWidth 16

/-- The spec's own inference R107: two different states collide on a byte exactly when their second-step values are
`k` and `k + 0xFF01` for some `k` up to 0xFE; for a fixed state the step is injective in the byte. -/
def Obligations.CkstepCollisions : Prop :=
  (∀ (v w : U16) (b : Byte),
    let r := fun x : U16 => (((x.toNat * 2 + x.toNat / 32768) ^^^ 0xFFFF) % 65536 : Nat)
    (v ≠ w ∧ ckstep v b = ckstep w b) ↔
      ∃ k, k ≤ 0xFE ∧ ((r v = k ∧ r w = k + 0xFF01) ∨ (r w = k ∧ r v = k + 0xFF01))) ∧
  (∀ (v : U16) (b c : Byte), ckstep v b = ckstep v c → b = c)

/-- R102 along a run: `CK_ADDS bs` folds the bytes into CK in stream order and touches nothing else. -/
def Obligations.CkAddsFoldInOrder : Prop :=
  ∀ (s : State) (bs : List Byte), Ready s →
    perform (ckAdds bs) s =
      .next { s with ck := ckfold s.ck bs,
                     responses := s.responses ++ List.replicate bs.length { status := .ok, value := none } }

/-! ### Frame Encoder -/

/-- R120: ENC_ADD, within the capacity: the start pair if the buffer is empty, the escaped byte, the checksum of the
unescaped byte, nothing else; every `DATA` is legal; the example from reset. -/
def Obligations.EncAddAppendsEscapedByte : Prop :=
  (∀ (b : Byte) (s : State), EncFits s (encOutAfter s.encOut b) →
    exec (.encAdd b) s = returns none { s with encOut := encOutAfter s.encOut b, encCk := ckstep s.encCk b }) ∧
  (∀ b : Byte, decodeRequest { word := 0x3#4 ++ b } = .ok (.encAdd b)) ∧
  encOutAfter [] 0x09#8 = [0xFE#8, 0xFE#8, 0x09#8] ∧ ckstep 0x147A#16 0x09#8 = 0xD7EB#16

/-- R121: ENC_FRAME, within the capacity: the buffer, the escaped checksum high byte first, the terminator; then the
encoder has its reset values and nothing else changes; the examples, and what R122 says it returns with nothing added. -/
def Obligations.EncFrameReturnsFrame : Prop :=
  (∀ s : State, EncFits s (closedFrame s.encOut s.encCk) →
    exec .encFrame s = returns (some (.bytes (closedFrame s.encOut s.encCk))) { s with encOut := [], encCk := 0x147A#16 }) ∧
  decodeRequest { word := 0x400#12 } = .ok .encFrame ∧
  (∀ d : Byte, d ≠ 0 → AnsweredIllegal { word := 0x4#4 ++ d }) ∧
  closedFrame [] 0x147A#16 = [0x14#8, 0x7A#8, 0xFE#8, 0x0D#8] ∧
  closedFrame [0xFE#8, 0xFE#8, 0x09#8] 0xD7EB#16 = [0xFE#8, 0xFE#8, 0x09#8, 0xD7#8, 0xEB#8, 0xFE#8, 0x0D#8] ∧
  closedFrame [0xFE#8, 0xFE#8, 0x1C#8] 0xD7FE#16 = [0xFE#8, 0xFE#8, 0x1C#8, 0xD7#8, 0xFE#8, 0xF0#8, 0xFE#8, 0x0D#8]

/-- R71: the escape function, and that a frame escapes its payload and checksum bytes and nothing else. -/
def Obligations.EscapeRule : Prop :=
  (∀ b : Byte, b = 0xFE#8 → esc b = [0xFE#8, 0xF0#8]) ∧ (∀ b : Byte, b ≠ 0xFE#8 → esc b = [b]) ∧
  (∀ p : List Byte, wireFrame p = frameOnWire p)

/-- What the private encoder returns for a payload is its wire frame (R70, R177; the spec's own inference R123). -/
def Obligations.FrameOfIsWireFrame : Prop :=
  ∀ p : List Byte, p ≠ [] → frameOf p = frameOnWire p

/-- The spec's own inference R72: no frame of a payload is shorter than 7 bytes, and one byte attains it. -/
def Obligations.ShortestFrameIsSevenBytes : Prop :=
  (∀ p : List Byte, p ≠ [] → 7 ≤ (frameOf p).length) ∧ (frameOf [0x09#8]).length = 7

/-- The spec's own inferences R123 and R124 along a run: from an empty encoder `ENC_ADDS p; ENC_FRAME` returns the wire
frame of `p` and leaves every part of the state as it was. The instance is unbounded (`Ready`). -/
def Obligations.EncodingAMessageReturnsItsFrame : Prop :=
  ∀ (s : State) (p : List Byte), Ready s → s.encOut = [] → s.encCk = 0x147A#16 → p ≠ [] →
    perform (encAdds p ++ [encode .encFrame]) s =
      .next { s with responses := s.responses ++ List.replicate p.length { status := .ok, value := none } ++
                       [{ status := .ok, value := some (.bytes (frameOnWire p)) }] }

/-! ### Frame Decoder -/

/-- R140 to R148: DEC_ADD of every byte follows the transition table, with `DONE` exactly on the transition into
FrameComplete; every `DATA` is legal. (Overflow of a finite buffer is stated apart.) -/
def Obligations.DecAddFollowsTable : Prop :=
  (∀ b : Byte, FollowsTable (.decAdd b) b) ∧ (∀ b : Byte, decodeRequest { word := 0x5#4 ++ b } = .ok (.decAdd b))

/-- The model's reading (log 3) of the wire rows of the opcode table: a wire byte of each class makes the transition
of its column of R140. -/
def Obligations.WireBytesFollowTable : Prop :=
  FollowsTable .wireStart 0xFE#8 ∧ FollowsTable .wireEnd 0x0D#8 ∧ FollowsTable .wireEscapedStart 0xF0#8 ∧
  (∀ b : Byte, WellFormed (.wireOther b) → FollowsTable (.wireOther b) b)

/-- `DEC_STATE` holding 6 or 7 is a fault where an operation reads it (R25, item I1; which operations: log 12). -/
def Obligations.UnassignedDecStateFaults : Prop :=
  ∀ (i : Instr) (b : Byte) (s : State), Delivers i b ∨ i = .msgDispatch → s.decState = 6 ∨ s.decState = 7 →
    exec i s = .fault .decStateUnassigned

/-- R149: DEC_FRAME returns the buffer and changes no state, in every state of the decoder. -/
def Obligations.DecFrameReturnsBuffer : Prop :=
  (∀ s : State, exec .decFrame s = returns (some (.bytes s.decBuf)) s) ∧
  decodeRequest { word := 0x600#12 } = .ok .decFrame ∧ (∀ d : Byte, d ≠ 0 → AnsweredIllegal { word := 0x6#4 ++ d })

/-- R150: DEC_RESET puts the decoder into S0 with an empty buffer and touches no other state. -/
def Obligations.DecResetEmptiesDecoder : Prop :=
  (∀ s : State, exec .decReset s = returns none { s with decState := 0, decBuf := [] }) ∧
  decodeRequest { word := 0x700#12 } = .ok .decReset ∧ (∀ d : Byte, d ≠ 0 → AnsweredIllegal { word := 0x7#4 ++ d })

/-- The spec's own inference R151: from every sound decoder state `FE FE` leaves S2 with an empty buffer, `DONE` false
on both. -/
def Obligations.TwoStartBytesResynchronise : Prop :=
  ∀ s : State, Ready s → DecoderSound s →
    perform (decAdds [0xFE#8, 0xFE#8]) s =
      .next { s with decState := 2, decBuf := [], responses := s.responses ++ [doneResponse false, doneResponse false] }

/-- The spec's own inference R152: a frame whose payload does not begin with `0xFE` is recovered from every sound
decoder state of an unbounded instance (`Ready`), `DONE` on its last byte only. -/
def Obligations.FrameRecovery : Prop :=
  ∀ (s : State) (p : List Byte), Ready s → DecoderSound s → p ≠ [] → p.head? ≠ some 0xFE#8 →
    perform (decAdds (frameOnWire p)) s =
      .next { s with decState := 5, decBuf := withChecksum p (ckfold 0x147A#16 p),
                     responses := s.responses ++ List.replicate ((frameOnWire p).length - 1) (doneResponse false) ++
                       [doneResponse true] }

/-- The spec's own inference R153 (conflict C1): a first payload byte `0xFE` comes back as `0xF0`, `DONE` still on the
last byte only. -/
def Obligations.FirstByteFEComesBackAsF0 : Prop :=
  ∀ (s : State) (q : List Byte), Ready s → DecoderSound s →
    perform (decAdds (frameOnWire (0xFE#8 :: q))) s =
      .next { s with decState := 5, decBuf := withChecksum (0xF0#8 :: q) (ckfold 0x147A#16 (0xFE#8 :: q)),
                     responses := s.responses ++
                       List.replicate ((frameOnWire (0xFE#8 :: q)).length - 1) (doneResponse false) ++
                       [doneResponse true] }

/-- The spec's own inference R154: any bytes before a frame, extra start bytes among them, do not prevent its recovery
in an unbounded instance (`Ready`). -/
def Obligations.JunkBeforeAFrameIsTolerated : Prop :=
  ∀ (s : State) (junk p : List Byte), Ready s → DecoderSound s → p ≠ [] → p.head? ≠ some 0xFE#8 →
    ∃ ds : List Bool, ds.length = junk.length ∧
      perform (decAdds (junk ++ frameOnWire p)) s =
        .next { s with decState := 5, decBuf := withChecksum p (ckfold 0x147A#16 p),
                       responses := s.responses ++ ds.map doneResponse ++
                         List.replicate ((frameOnWire p).length - 1) (doneResponse false) ++ [doneResponse true] }

/-- R58, R86: bytes supplied in two chunks are those bytes supplied one after the other, and `DEC_ADDS` answers one
`DONE` value a byte. -/
def Obligations.DecAddsChunksAndResponses : Prop :=
  (∀ (s t : State) (bs cs : List Byte), Ready s → perform (decAdds bs) s = .next t →
    perform (decAdds (bs ++ cs)) s = perform (decAdds cs) t) ∧
  (∀ (s : State) (bs : List Byte), Ready s → DecoderSound s →
    ∃ (t : State) (ds : List Bool), perform (decAdds bs) s = .next t ∧ ds.length = bs.length ∧
      t.responses = s.responses ++ ds.map doneResponse)

/-! ### Overflow -/

/-- R253: an ENC_ADD, ENC_FRAME or DEC_ADD past a finite capacity leaves the instance faulted; a faulted instance
performs no further request; with unbounded buffers no request makes an instance faulted. The fifth clause rests on the
model's choices: a faulted instance has no next state with nothing pending either (log 7), and what gives it one is a
reset event at the front of the pending list (log 10). -/
def Obligations.OverflowFaultsUntilReset : Prop :=
  (∀ (b : Byte) (s : State), ¬ EncFits s (encOutAfter s.encOut b) → ∃ t, exec (.encAdd b) s = .next t ∧ t.faulted = true) ∧
  (∀ s : State, ¬ EncFits s (closedFrame s.encOut s.encCk) → ∃ t, exec .encFrame s = .next t ∧ t.faulted = true) ∧
  (∀ (b : Byte) (s : State), DecOverflows s b → ∃ t, exec (.decAdd b) s = .next t ∧ t.faulted = true) ∧
  (∀ (s : State) (p : Packet) (rest : List Event), s.faulted = true → s.pending = .packet p :: rest →
    step s = .fault .faultOverflow) ∧
  (∀ s t : State, s.faulted = true → step s = .next t → t.faulted = false ∧ ∃ rest, s.pending = .reset :: rest) ∧
  (∀ (i : Instr) (s t : State), s.params.decBufCap = none → s.params.encOutCap = none → exec i s = .next t →
    t.faulted = s.faulted)

/-- The model's choice (log 7): an overflow changes nothing but `FAULT_OVERFLOW` and gives no response, for the wire
rows too. -/
def Obligations.OverflowChangesNothingElse : Prop :=
  (∀ (b : Byte) (s : State), ¬ EncFits s (encOutAfter s.encOut b) →
    exec (.encAdd b) s = .next { s with faulted := true }) ∧
  (∀ s : State, ¬ EncFits s (closedFrame s.encOut s.encCk) → exec .encFrame s = .next { s with faulted := true }) ∧
  (∀ (i : Instr) (b : Byte) (s : State), Delivers i b → DecOverflows s b → exec i s = .next { s with faulted := true })

/-! ### Message Codec, encoding -/

/-- R174: MSG_ENC_NODATA returns frameOf([cmd]) where the catalog gives the shape, else `E_NOT_IN_CATALOG`; no state
changes; every `DATA` is legal. -/
def Obligations.MsgEncNodataFramesCommand : Prop :=
  (∀ (cmd : Byte) (s : State),
    ((Catalog.entry s.params.catalog cmd).noData = true →
      exec (.msgEncNodata cmd) s = returns (some (.bytes (frameOf [cmd]))) s) ∧
    ((Catalog.entry s.params.catalog cmd).noData = false → exec (.msgEncNodata cmd) s = fails .notInCatalog s)) ∧
  (∀ cmd : Byte, decodeRequest { word := 0x8#4 ++ cmd } = .ok (.msgEncNodata cmd))

/-- R175: MSG_ENC_SEL returns frameOf([cmd, 0x00]) where the catalog gives the shape, else `E_NOT_IN_CATALOG`; no state
changes; every `DATA` is legal. -/
def Obligations.MsgEncSelFramesSelector : Prop :=
  (∀ (cmd : Byte) (s : State),
    ((Catalog.entry s.params.catalog cmd).noDataSel = true →
      exec (.msgEncSel cmd) s = returns (some (.bytes (frameOf [cmd, 0x00#8]))) s) ∧
    ((Catalog.entry s.params.catalog cmd).noDataSel = false → exec (.msgEncSel cmd) s = fails .notInCatalog s)) ∧
  (∀ cmd : Byte, decodeRequest { word := 0x9#4 ++ cmd } = .ok (.msgEncSel cmd))

/-- R171, R172, R176: MSG_ENC_AUTH reports the first failing check in the order catalog, code length, code characters,
flags length; where all hold it returns the frame of `[cmd] ++ packcode(CODE) ++ packflags(FLAGS)`; no state changes. -/
def Obligations.MsgEncAuthChecksThenFrames : Prop :=
  (∀ (cmd : Byte) (code : List Byte) (flags : List Bool) (s : State),
    ((Catalog.entry s.params.catalog cmd).flagsAuth = none →
      exec (.msgEncAuth cmd code flags) s = fails .notInCatalog s) ∧
    (∀ l : LengthSet, (Catalog.entry s.params.catalog cmd).flagsAuth = some l →
      (code.length ≠ 16 → exec (.msgEncAuth cmd code flags) s = fails .codeLength s) ∧
      (code.length = 16 → (∃ c ∈ code, ¬ AllowedChar c) → exec (.msgEncAuth cmd code flags) s = fails .codeChar s) ∧
      (code.length = 16 → (∀ c ∈ code, AllowedChar c) → ¬ (flags.length = l.first ∨ flags.length ∈ l.more) →
        exec (.msgEncAuth cmd code flags) s = fails .flagsLength s) ∧
      (code.length = 16 → (∀ c ∈ code, AllowedChar c) → (flags.length = l.first ∨ flags.length ∈ l.more) →
        exec (.msgEncAuth cmd code flags) s =
          returns (some (.bytes (frameOf ([cmd] ++ packcode code ++ packflags flags)))) s))) ∧
  (∀ (cmd : Byte) (code : List Byte) (flags : List Bool),
    decodeRequest { word := 0xA#4 ++ cmd, code := some code, flags := some flags } = .ok (.msgEncAuth cmd code flags))

/-- R57, R77: packcode gives 8 bytes, character `2k` in the high nibble of byte `k` and character `2k+1` in the low one. -/
def Obligations.PackcodeNibbles : Prop :=
  ∀ s : List Byte, s.length = 16 → (∀ c ∈ s, AllowedChar c) →
    (packcode s).length = 8 ∧
    ∀ k, k < 8 → ∀ hi lo : Byte, s[2 * k]? = some hi → s[2 * k + 1]? = some lo →
      (packcode s)[k]? = some (BitVec.ofNat 8 (nibbleOf hi * 16 + nibbleOf lo))

/-- R56, R78 and the first sentence of R79: flag `i` is bit `i mod 8` of byte `i div 8`, least significant first, in
both directions; the unused bits of the last byte are 0. -/
def Obligations.FlagsAreLeastSignificantFirst : Prop :=
  (∀ f : List Bool, (packflags f).length = (f.length + 7) / 8 ∧
    ∀ k j, j < 8 → ∀ b : Byte, (packflags f)[k]? = some b → b.getLsbD j = (f[8 * k + j]?).getD false) ∧
  (∀ d : List Byte, (unpackflags d).length = 8 * d.length ∧
    ∀ i j, j < 8 → ∀ b : Byte, d[i]? = some b → (unpackflags d)[8 * i + j]? = some (b.getLsbD j))

/-- The spec's own inference in R79: on lengths that are multiples of 8 unpacking is the inverse of packing, both ways. -/
def Obligations.UnpackInvertsPack : Prop :=
  (∀ f : List Bool, f.length % 8 = 0 → unpackflags (packflags f) = f) ∧
  (∀ d : List Byte, packflags (unpackflags d) = d)

/-! ### Message Codec, decoding -/

/-- R200, steps 2 to 6. -/
def Obligations.DecodePayloadSteps : Prop :=
  ∀ (cat : Catalog) (p : List Byte),
    (p.length < 3 → decodePayload cat p = none) ∧
    (∀ (code hi lo : Byte) (data : List Byte), p = code :: data ++ [hi, lo] →
      (¬ (hi = (ckfold 0x147A#16 (code :: data)).extractLsb' 8 8 ∧ lo = (ckfold 0x147A#16 (code :: data)).extractLsb' 0 8) →
        decodePayload cat p = none) ∧
      (hi = (ckfold 0x147A#16 (code :: data)).extractLsb' 8 8 → lo = (ckfold 0x147A#16 (code :: data)).extractLsb' 0 8 →
        ((Catalog.entry cat code).ans = none → decodePayload cat p = none) ∧
        (∀ v, (Catalog.entry cat code).ans = some v → decodePayload cat p = decodeVariant code v data)))

/-- R204 to R207: each variant against its accepted data lengths. -/
def Obligations.DecodeVariantLengths : Prop :=
  ∀ (code : Byte) (data : List Byte),
    (∀ a : LengthSet,
      ((data.length = a.first ∨ data.length ∈ a.more) →
        decodeVariant code (.flagArray a) data = some (.flags code (unpackflags data))) ∧
      (¬ (data.length = a.first ∨ data.length ∈ a.more) → decodeVariant code (.flagArray a) data = none)) ∧
    (data.length ∈ [5, 6, 7] → decodeVariant code .changeNotify data = some (.change code (unpackflags data))) ∧
    (data.length ∉ [5, 6, 7] → decodeVariant code .changeNotify data = none) ∧
    (∀ r : Byte, data = [r] → decodeVariant code .result data = some (.result code r)) ∧
    (data.length ≠ 1 → decodeVariant code .result data = none)

/-- R201: MSG_DECODE answers the decoding of the first frame its bytes complete in a fresh decoder, `none` where none
does, and changes no state; `RAW` is its one operand and `DATA` must be 0. -/
def Obligations.MsgDecodeAnswersFirstFrame : Prop :=
  (∀ (raw : List Byte) (s : State),
    (firstFrame { st := .s0, buf := [] } raw = none → exec (.msgDecode raw) s = returns (some (.answer none)) s) ∧
    (∀ p, firstFrame { st := .s0, buf := [] } raw = some p →
      exec (.msgDecode raw) s = returns (some (.answer (decodePayload s.params.catalog p))) s)) ∧
  (∀ (d : Decoder) (b : Byte) (rest : List Byte),
    firstFrame d [] = none ∧
    ((decstep d b).2 = true → firstFrame d (b :: rest) = some (decstep d b).1.buf) ∧
    ((decstep d b).2 = false → firstFrame d (b :: rest) = firstFrame (decstep d b).1 rest)) ∧
  (∀ raw : List Byte, decodeRequest { word := 0xB00#12, raw := some raw } = .ok (.msgDecode raw)) ∧
  (∀ (d : Byte) (raw : List Byte), d ≠ 0 → AnsweredIllegal { word := 0xB#4 ++ d, raw := some raw })

/-- R202: MSG_DISPATCH decodes the completed frame in S5, answers `none` in S0 to S4, and changes no state. -/
def Obligations.MsgDispatchDecodesCompletedFrame : Prop :=
  (∀ s : State, s.decState = 5 →
    exec .msgDispatch s = returns (some (.answer (decodePayload s.params.catalog s.decBuf))) s) ∧
  (∀ s : State, s.decState.toNat < 5 → exec .msgDispatch s = returns (some (.answer none)) s) ∧
  decodeRequest { word := 0xC00#12 } = .ok .msgDispatch ∧ (∀ d : Byte, d ≠ 0 → AnsweredIllegal { word := 0xC#4 ++ d })

/-- The spec's own inference R215: MSG_DECODE of the frame of `[cmd] ++ data` decodes `data` by `cmd`'s variant for
every `cmd` but `0xFE`; for `0xFE` it decodes the payload the decoder recovers, which begins with `0xF0`. -/
def Obligations.MessageRoundTrip : Prop :=
  (∀ (s : State) (cmd : Byte) (data : List Byte) (v : AnswerVariant), cmd ≠ 0xFE#8 →
    (Catalog.entry s.params.catalog cmd).ans = some v →
    exec (.msgDecode (frameOf (cmd :: data))) s = returns (some (.answer (decodeVariant cmd v data))) s) ∧
  (∀ (s : State) (data : List Byte),
    exec (.msgDecode (frameOf (0xFE#8 :: data))) s =
      returns (some (.answer (decodePayload s.params.catalog
        (withChecksum (0xF0#8 :: data) (ckfold 0x147A#16 (0xFE#8 :: data)))))) s)

/-- The streaming path agrees with the one-shot path: bytes that complete a frame at their end and not before, fed by
DEC_ADD to an empty decoder, then MSG_DISPATCH, give the answer MSG_DECODE gives for those bytes with anything after
them (R201, R202, R280). The instance is unbounded (`Ready`). -/
def Obligations.StreamingAgreesWithOneShot : Prop :=
  ∀ (s t : State) (raw suffix : List Byte), Ready s → s.decState = 0 → s.decBuf = [] → raw ≠ [] →
    perform (decAdds raw) s = .next t →
    t.responses = s.responses ++ List.replicate (raw.length - 1) (doneResponse false) ++ [doneResponse true] →
    ∃ a : Option Answer, exec .msgDispatch t = returns (some (.answer a)) t ∧
      exec (.msgDecode (raw ++ suffix)) t = returns (some (.answer a)) t

/-- The spec's own inference R278: no answer of MSG_DECODE, and none of MSG_DISPATCH in a sound state, has command code
`0xFE`, whatever the catalog. -/
def Obligations.CodeFENeverReceived : Prop :=
  (∀ (raw : List Byte) (s t : State) (a : Answer),
    exec (.msgDecode raw) s = .next t → t.responses = s.responses ++ [{ status := .ok, value := some (.answer (some a)) }] →
    a.code ≠ 0xFE#8) ∧
  (∀ (s t : State) (a : Answer), Sound s →
    exec .msgDispatch s = .next t → t.responses = s.responses ++ [{ status := .ok, value := some (.answer (some a)) }] →
    a.code ≠ 0xFE#8)

/-- The spec's own inference R216 (conflict C2), vectors CK-14 and MD-40: a flipped bit that the checksum does not see,
and a corrupted frame accepted as a different answer wherever the catalog reads code 0x7F as a change notification. -/
def Obligations.UndetectedSingleBitFlip : Prop :=
  ckfold 0x147A#16 [0x00, 0x00, 0x97, 0x00, 0xFF, 0x00, 0x00] = 0x0000#16 ∧
  ckfold 0x147A#16 [0x00, 0x00, 0x97, 0x00, 0xFF, 0x80, 0x00] = 0x0000#16 ∧
  ∀ s : State, (Catalog.entry s.params.catalog 0x7F#8).ans = some .changeNotify →
    exec (.msgDecode [0xFE, 0xFE, 0x7F, 0x80, 0x01, 0x7F, 0x80, 0x00, 0x00, 0x00, 0xA6, 0xFE, 0x0D]) s =
      returns (some (.answer (some (.change 0x7F (unpackflags [0x80, 0x01, 0x7F, 0x80, 0x00, 0x00]))))) s ∧
    exec (.msgDecode [0xFE, 0xFE, 0x7F, 0x80, 0x01, 0x7F, 0x80, 0x80, 0x00, 0x00, 0xA6, 0xFE, 0x0D]) s =
      returns (some (.answer (some (.change 0x7F (unpackflags [0x80, 0x01, 0x7F, 0x80, 0x80, 0x00]))))) s

/-- R208: the result table, every byte. -/
def Obligations.ResultCodeKinds : Prop :=
  ∀ r : Byte, resultKind r =
    if r = 0x00#8 then .ok else if r = 0x01#8 then .userCodeNotFound else if r = 0x02#8 then .noAccess
    else if r = 0x03#8 then .userDoesNotExist else if r = 0x04#8 then .userAlreadyExists
    else if r = 0x05#8 then .wrongOrDuplicateCode else if r = 0x06#8 then .telephoneCodeExists
    else if r = 0x07#8 then .unchangedCode else if r = 0x08#8 then .otherError else if r = 0x11#8 then .canForceArm
    else if r = 0x12#8 then .cannotArm else if r = 0xFF#8 then .commandAccepted else .unknown

/-- R210 to R214: the accessors on each variant, in and out of range. -/
def Obligations.AnswerAccessors : Prop :=
  (∀ (c : Byte) (f : List Bool) (t : ResultTexts) (i : Nat) (k : Byte),
    (Answer.flags c f).flagList = some f ∧ (Answer.change c f).flagList = some f ∧
    (Answer.flags c f).flag i = f[i]? ∧ (Answer.change c f).flag i = f[i]? ∧
    (Answer.flags c f).changed k = none ∧ (Answer.change c f).changed k = f[k.toNat]? ∧
    (Answer.flags c f).resultKind? = none ∧ (Answer.change c f).resultKind? = none ∧
    (Answer.flags c f).resultText? t = none ∧ (Answer.change c f).resultText? t = none) ∧
  (∀ (c r : Byte) (t : ResultTexts) (i : Nat) (k : Byte),
    (Answer.result c r).flagList = none ∧ (Answer.result c r).flag i = none ∧ (Answer.result c r).changed k = none ∧
    (Answer.result c r).resultKind? = some (resultKind r) ∧
    (Answer.result c r).resultText? t = some (resultText t (resultKind r))) ∧
  (∀ t : ResultTexts, resultText t .commandAccepted = "Command accepted" ∧ resultText t .unknown = "Unknown result code")

/-! ### The whole machine -/

/-- R240: the status codes; 6 and 7 are never produced and have no meaning. -/
def Obligations.StatusCodes : Prop :=
  (Status.code .ok = 0 ∧ Status.code .illegalOp = 1 ∧ Status.code .notInCatalog = 2 ∧ Status.code .codeLength = 3 ∧
    Status.code .codeChar = 4 ∧ Status.code .flagsLength = 5) ∧
  (∀ e : Status, readStatus e.code = .ok e ∧ e.code ≠ 6 ∧ e.code ≠ 7) ∧
  readStatus 6 = .error .statusReserved ∧ readStatus 7 = .error .statusReserved

/-- R241: a step whose response has an error status changes no register, buffer, table or fault, and the response
carries no value. -/
def Obligations.ErrorsChangeNothing : Prop :=
  ∀ (s t : State) (e : Status) (v : Option Value), step s = .next t → e ≠ .ok →
    t.responses = s.responses ++ [{ status := e, value := v }] →
    v = none ∧ t.tuple = s.tuple ∧ t.params = s.params ∧ t.faulted = false

/-- The "written by" column of R20: every register, buffer and table is unchanged by every operation that the column
does not name for it (the wire rows count as DEC_ADD, log 3). -/
def Obligations.OnlyTheNamedOperationsWrite : Prop :=
  ∀ (i : Instr) (s t : State), exec i s = .next t →
    t.params = s.params ∧
    (i ≠ .ckInit → (∀ b, i ≠ .ckAdd b) → t.ck = s.ck) ∧
    (i ≠ .encFrame → (∀ b, i ≠ .encAdd b) → t.encCk = s.encCk ∧ t.encOut = s.encOut) ∧
    (i ≠ .decReset → (∀ b, i ≠ .decAdd b) → i ≠ .wireStart → i ≠ .wireEnd → i ≠ .wireEscapedStart →
      (∀ b, i ≠ .wireOther b) → t.decState = s.decState ∧ t.decBuf = s.decBuf)

/-- The read-only configuration never changes, whatever a step does, a reset among it (R62, R270, R273). -/
def Obligations.ConfigurationNeverChanges : Prop :=
  ∀ s t : State, step s = .next t → t.params = s.params

/-- The invariant: the encoder holds what some payload put there (R22 to R24), the decoder invariant R27 with the six
codes of R25, the capacities (R32). Every step keeps it. -/
def Obligations.EveryStepKeepsSound : Prop :=
  ∀ s t : State, Sound s → step s = .next t → Sound t

/-- The invariant holds at reset. -/
def Obligations.ResetIsSound : Prop := Sound State.reset

/-- R33, R270: the state after reset, and what a reset does to any state: every element of the mutable state takes its
reset value, FAULT_OVERFLOW is cleared, the configuration stays, no response is given. -/
def Obligations.ResetValues : Prop :=
  (State.reset.ck = 0x147A#16 ∧ State.reset.encCk = 0x147A#16 ∧ State.reset.encOut = [] ∧ State.reset.decState = 0 ∧
    State.reset.decBuf = [] ∧ State.reset.faulted = false) ∧
  (∀ (s : State) (rest : List Event), s.pending = .reset :: rest →
    ∃ t, step s = .next t ∧
      t.tuple = { ck := 0x147A#16, encCk := 0x147A#16, encOut := [], decState := 0, decBuf := [] } ∧
      t.faulted = false ∧ t.params = s.params ∧ t.responses = s.responses)

/-- The model's choice (log 9) for R276 and R283: with nothing sent, an unfaulted block stays as it is, a stalled partial
frame included. -/
def Obligations.IdleBlockStaysAsItIs : Prop :=
  ∀ s : State, s.pending = [] → s.faulted = false → step s = .next s

/-- The spec's own inference in R53: the operations other than CK_ADD, ENC_ADD, ENC_FRAME, DEC_ADD (and the wire rows)
are idempotent: performed again they leave the same mutable state and give the same response. -/
def Obligations.OtherOperationsAreIdempotent : Prop :=
  ∀ (i : Instr) (s t : State), exec i s = .next t →
    (∀ b, i ≠ .ckAdd b) → (∀ b, i ≠ .encAdd b) → i ≠ .encFrame → (∀ b, ¬ Delivers i b) → (∀ b, i ≠ .wireOther b) →
    ∃ r : Response, t.responses = s.responses ++ [r] ∧ exec i t = .next { t with responses := t.responses ++ [r] }

/-- The spec's own inference in R281: in an unbounded instance in a sound state every program of requests runs to its
end, each request getting its one response, and leaves the instance ready and sound. -/
def Obligations.EveryRequestGetsItsResponse : Prop :=
  ∀ (s : State) (prog : List Packet), Ready s → Sound s →
    ∃ t : State, perform prog s = .next t ∧ t.responses.length = s.responses.length + prog.length ∧ Ready t ∧ Sound t ∧
      observe (perform prog s) = some (.final t.responses t.tuple)

/-- R177, R201: the MSG_ENC operations and MSG_DECODE neither read nor write the block's checksum, encoder or decoder:
in any two states with the same catalog they give the same response and change nothing else. -/
def Obligations.PrivateCodecIsIndependent : Prop :=
  ∀ (i : Instr) (s u : State),
    ((∃ cmd, i = .msgEncNodata cmd) ∨ (∃ cmd, i = .msgEncSel cmd) ∨ (∃ cmd code flags, i = .msgEncAuth cmd code flags) ∨
      (∃ raw, i = .msgDecode raw)) →
    s.params.catalog = u.params.catalog →
    ∃ r : Response, exec i s = .next { s with responses := s.responses ++ [r] } ∧
      exec i u = .next { u with responses := u.responses ++ [r] }

/-- R251, R30, R62: the instances of a system read the one pair of tables that the system holds, which no step changes; a
step of one instance leaves every other as it was and is that instance's own step under those tables; and a system as
`bootSystem` makes it has, under its tables, the instances that `boot` makes of their setups (the list of instances is
the model's, log 19, and each has its own capacities, log 24). -/
def Obligations.InstancesAreIndependent : Prop :=
  (∀ (sys : Instances) (k : Nat),
    (stepAt sys k).tables = sys.tables ∧ (stepAt sys k).members.length = sys.members.length ∧
    (∀ j, j ≠ k → (stepAt sys k).members[j]? = sys.members[j]?) ∧
    (∀ m : Member, sys.members[k]? = some (.next m) →
      (m.under sys.tables).params.catalog = sys.tables.catalog ∧
      (m.under sys.tables).params.resultTexts = sys.tables.resultTexts ∧
      (∀ t : State, step (m.under sys.tables) = .next t →
        ∃ m' : Member, (stepAt sys k).members[k]? = some (.next m') ∧ m'.under sys.tables = t) ∧
      (∀ f : Fault, step (m.under sys.tables) = .fault f → (stepAt sys k).members[k]? = some (.fault f)))) ∧
  (∀ (c : SystemSetup) (sys : Instances), bootSystem c = .ok sys →
    sys.members.length = c.members.length ∧
    ∀ (k : Nat) (m : MemberSetup), c.members[k]? = some m →
      ∃ x : Member, sys.members[k]? = some (.next x) ∧ boot (c.setupOf m) = .ok (x.under sys.tables))

/-- R60, R273, D21: before the first request a second requester and a malformed catalog are refused; any other setup
gives the reset state with the catalog that the rows write (the model's choices: two requesters are looked
at first, log 14, and an instance without a requester is accepted, log 25). -/
def Obligations.BootRefusesWhatTheSpecRefuses : Prop :=
  (∀ c : Setup, 1 < c.requesters → boot c = .error .concurrentRequesters) ∧
  (∀ c : Setup, c.requesters ≤ 1 → CatalogMalformed c.rows → boot c = .error .malformedCatalog) ∧
  (∀ c : Setup, c.requesters ≤ 1 → ¬ CatalogMalformed c.rows →
    ∃ cat : Catalog, cat.named = c.named ∧
      boot c = .ok (State.fresh { catalog := cat, resultTexts := c.resultTexts, decBufCap := c.decBufCap,
                                  encOutCap := c.encOutCap, seqCap := c.seqCap }) ∧
      (∀ k : Byte, k ∉ c.rows.map RawRow.code → Catalog.entry cat k = emptyEntry) ∧
      (∀ r ∈ c.rows,
        ((Catalog.entry cat r.code).noData = true ↔ .noData ∈ r.enc) ∧
        ((Catalog.entry cat r.code).noDataSel = true ↔ .noDataSel ∈ r.enc) ∧
        ((Catalog.entry cat r.code).flagsAuth = none ↔ ∀ l, .flagsAuth l ∉ r.enc) ∧
        (∀ l, .flagsAuth l ∈ r.enc →
          ∃ ls, (Catalog.entry cat r.code).flagsAuth = some ls ∧ ∀ n, ls.has n = true ↔ n ∈ l) ∧
        (r.ans = none → (Catalog.entry cat r.code).ans = none) ∧
        (r.ans = some .changeNotify → (Catalog.entry cat r.code).ans = some .changeNotify) ∧
        (r.ans = some .result → (Catalog.entry cat r.code).ans = some .result) ∧
        (∀ l, r.ans = some (.flagArray l) →
          ∃ ls, (Catalog.entry cat r.code).ans = some (.flagArray ls) ∧ ∀ n, ls.has n = true ↔ n ∈ l)))
end

