-- ==== Sys2Proof/Laws/Decode.lean ====
section
/-! SUPPORT. The fields of the request word, and what each kind of row of the opcode map accepts. -/

namespace Sys2Proof

@[simp] theorem opField_mkWord (op : BitVec 4) (d : Byte) : opField (mkWord op d) = op := by
  unfold opField mkWord; revert op d; decide +kernel

@[simp] theorem dataField_mkWord (op : BitVec 4) (d : Byte) : dataField (mkWord op d) = d := by
  unfold dataField mkWord; revert op d; decide +kernel

theorem mkWord_fields (w : BitVec 12) : mkWord (opField w) (dataField w) = w := by
  revert w; decide +kernel

theorem opField_toNat (w : BitVec 12) : (opField w).toNat = w.toNat / 256 := by
  revert w; decide +kernel

theorem dataField_toNat (w : BitVec 12) : (dataField w).toNat = w.toNat % 256 := by
  revert w; decide +kernel

theorem Request.bare_iff (r : Request) : r.bare = true ↔ r.raw = none ∧ r.code = none ∧ r.flags = none := by
  simp [Request.bare, and_assoc]

theorem plainRow_eq_ok {r : Request} {i j : Instr} :
    plainRow r i = .ok j ↔
      dataField r.word = 0 ∧ (r.raw = none ∧ r.code = none ∧ r.flags = none) ∧ j = i := by
  rw [← Request.bare_iff, eq_comm (a := j)]
  unfold plainRow
  split
  · split <;> simp_all
  · simp_all

theorem byteRow_eq_ok {r : Request} {mk : Byte → Instr} {j : Instr} :
    byteRow r mk = .ok j ↔ (r.raw = none ∧ r.code = none ∧ r.flags = none) ∧ j = mk (dataField r.word) := by
  rw [← Request.bare_iff, eq_comm (a := j)]
  unfold byteRow
  split <;> simp_all

theorem authRow_eq_ok {r : Request} {j : Instr} :
    authRow r = .ok j ↔
      ∃ c f, r.raw = none ∧ r.code = some c ∧ r.flags = some f ∧ j = .msgEncAuth (dataField r.word) c f := by
  obtain ⟨w, raw, code, flags⟩ := r
  cases raw <;> cases code <;> cases flags <;> simp [authRow]
  exact eq_comm

theorem rawRow_eq_ok {r : Request} {j : Instr} :
    rawRow r = .ok j ↔
      dataField r.word = 0 ∧ ∃ raw, r.raw = some raw ∧ r.code = none ∧ r.flags = none ∧ j = .msgDecode raw := by
  obtain ⟨w, raw, code, flags⟩ := r
  unfold rawRow
  split <;> cases raw <;> cases code <;> cases flags <;> simp_all
  exact eq_comm

end Sys2Proof
end

