-- ==== Sys2Proof/Laws/State.lean ====
section
/-! SUPPORT. What each update of the state does to each field, by rfl, for simp. -/

namespace Sys2Proof.Machine

open Sys2Proof

@[simp] theorem State.respond_ck (s : State) (r : Response) : (s.respond r).ck = s.ck := rfl
@[simp] theorem State.respond_encCk (s : State) (r : Response) : (s.respond r).encCk = s.encCk := rfl
@[simp] theorem State.respond_encOut (s : State) (r : Response) : (s.respond r).encOut = s.encOut := rfl
@[simp] theorem State.respond_decState (s : State) (r : Response) : (s.respond r).decState = s.decState := rfl
@[simp] theorem State.respond_decBuf (s : State) (r : Response) : (s.respond r).decBuf = s.decBuf := rfl
@[simp] theorem State.respond_faulted (s : State) (r : Response) : (s.respond r).faulted = s.faulted := rfl
@[simp] theorem State.respond_params (s : State) (r : Response) : (s.respond r).params = s.params := rfl
@[simp] theorem State.respond_pending (s : State) (r : Response) : (s.respond r).pending = s.pending := rfl
@[simp] theorem State.respond_responses (s : State) (r : Response) : (s.respond r).responses = s.responses ++ [r] := rfl

@[simp] theorem State.consume_ck (s : State) (rest : List Event) : (s.consume rest).ck = s.ck := rfl
@[simp] theorem State.consume_encCk (s : State) (rest : List Event) : (s.consume rest).encCk = s.encCk := rfl
@[simp] theorem State.consume_encOut (s : State) (rest : List Event) : (s.consume rest).encOut = s.encOut := rfl
@[simp] theorem State.consume_decState (s : State) (rest : List Event) : (s.consume rest).decState = s.decState := rfl
@[simp] theorem State.consume_decBuf (s : State) (rest : List Event) : (s.consume rest).decBuf = s.decBuf := rfl
@[simp] theorem State.consume_faulted (s : State) (rest : List Event) : (s.consume rest).faulted = s.faulted := rfl
@[simp] theorem State.consume_params (s : State) (rest : List Event) : (s.consume rest).params = s.params := rfl
@[simp] theorem State.consume_pending (s : State) (rest : List Event) : (s.consume rest).pending = rest := rfl
@[simp] theorem State.consume_responses (s : State) (rest : List Event) : (s.consume rest).responses = s.responses := rfl

@[simp] theorem State.resetBlock_ck (s : State) : (s.resetBlock).ck = seed := rfl
@[simp] theorem State.resetBlock_encCk (s : State) : (s.resetBlock).encCk = seed := rfl
@[simp] theorem State.resetBlock_encOut (s : State) : (s.resetBlock).encOut = [] := rfl
@[simp] theorem State.resetBlock_decState (s : State) : (s.resetBlock).decState = 0 := rfl
@[simp] theorem State.resetBlock_decBuf (s : State) : (s.resetBlock).decBuf = [] := rfl
@[simp] theorem State.resetBlock_faulted (s : State) : (s.resetBlock).faulted = false := rfl
@[simp] theorem State.resetBlock_params (s : State) : (s.resetBlock).params = s.params := rfl
@[simp] theorem State.resetBlock_pending (s : State) : (s.resetBlock).pending = s.pending := rfl
@[simp] theorem State.resetBlock_responses (s : State) : (s.resetBlock).responses = s.responses := rfl

@[simp] theorem State.withFetchWord_ck (s : State) (nbits w : Nat) : (s.withFetchWord nbits w).ck = s.ck := rfl
@[simp] theorem State.withFetchWord_encCk (s : State) (nbits w : Nat) : (s.withFetchWord nbits w).encCk = s.encCk := rfl
@[simp] theorem State.withFetchWord_encOut (s : State) (nbits w : Nat) : (s.withFetchWord nbits w).encOut = s.encOut := rfl
@[simp] theorem State.withFetchWord_decState (s : State) (nbits w : Nat) : (s.withFetchWord nbits w).decState = s.decState := rfl
@[simp] theorem State.withFetchWord_decBuf (s : State) (nbits w : Nat) : (s.withFetchWord nbits w).decBuf = s.decBuf := rfl
@[simp] theorem State.withFetchWord_faulted (s : State) (nbits w : Nat) : (s.withFetchWord nbits w).faulted = s.faulted := rfl
@[simp] theorem State.withFetchWord_params (s : State) (nbits w : Nat) : (s.withFetchWord nbits w).params = s.params := rfl
@[simp] theorem State.withFetchWord_pending (s : State) (nbits w : Nat) : (s.withFetchWord nbits w).pending = .packet (tablePacket nbits w) :: s.pending := rfl
@[simp] theorem State.withFetchWord_responses (s : State) (nbits w : Nat) : (s.withFetchWord nbits w).responses = s.responses := rfl

@[simp] theorem State.load_ck (s : State) (prog : List Packet) : (s.load prog).ck = s.ck := rfl
@[simp] theorem State.load_encCk (s : State) (prog : List Packet) : (s.load prog).encCk = s.encCk := rfl
@[simp] theorem State.load_encOut (s : State) (prog : List Packet) : (s.load prog).encOut = s.encOut := rfl
@[simp] theorem State.load_decState (s : State) (prog : List Packet) : (s.load prog).decState = s.decState := rfl
@[simp] theorem State.load_decBuf (s : State) (prog : List Packet) : (s.load prog).decBuf = s.decBuf := rfl
@[simp] theorem State.load_faulted (s : State) (prog : List Packet) : (s.load prog).faulted = s.faulted := rfl
@[simp] theorem State.load_params (s : State) (prog : List Packet) : (s.load prog).params = s.params := rfl
@[simp] theorem State.load_pending (s : State) (prog : List Packet) : (s.load prog).pending = s.pending ++ prog.map .packet := rfl
@[simp] theorem State.load_responses (s : State) (prog : List Packet) : (s.load prog).responses = s.responses := rfl

@[simp] theorem State.fresh_ck (p : Params) : (State.fresh p).ck = seed := rfl
@[simp] theorem State.fresh_encCk (p : Params) : (State.fresh p).encCk = seed := rfl
@[simp] theorem State.fresh_encOut (p : Params) : (State.fresh p).encOut = [] := rfl
@[simp] theorem State.fresh_decState (p : Params) : (State.fresh p).decState = 0 := rfl
@[simp] theorem State.fresh_decBuf (p : Params) : (State.fresh p).decBuf = [] := rfl
@[simp] theorem State.fresh_faulted (p : Params) : (State.fresh p).faulted = false := rfl
@[simp] theorem State.fresh_params (p : Params) : (State.fresh p).params = p := rfl
@[simp] theorem State.fresh_pending (p : Params) : (State.fresh p).pending = [] := rfl
@[simp] theorem State.fresh_responses (p : Params) : (State.fresh p).responses = [] := rfl

end Sys2Proof.Machine
end

