-- ==== Sys2Proof/Laws/Ops.lean ====
section
/-! SUPPORT. For each shared operation, once, everything it can do. -/

namespace Sys2Proof.Machine

open Sys2Proof

/-! ### How a request ends -/

theorem complete_next_iff {v : Option Value} {s t : State} :
    complete v s = .next t ↔ t = s.respond (.okay v) := by
  constructor
  · intro h; exact (Host.Outcome.next.inj h).symm
  · rintro rfl; rfl

theorem raiseError_next_iff {e : Status} {s t : State} :
    raiseError e s = .next t ↔ t = s.respond (.failed e) := by
  constructor
  · intro h; exact (Host.Outcome.next.inj h).symm
  · rintro rfl; rfl

@[simp] theorem reply_ok (v : Value) (s : State) : reply (.ok v) s = complete (some v) s := rfl

@[simp] theorem reply_error (e : Status) (s : State) : reply (.error e) s = raiseError e s := rfl

theorem reply_next_iff {r : Except Status Value} {s t : State} :
    reply r s = .next t ↔
      (∃ v, r = .ok v ∧ t = s.respond (.okay (some v))) ∨ (∃ e, r = .error e ∧ t = s.respond (.failed e)) := by
  cases r with
  | ok v => simp [complete_next_iff]
  | error e => simp [raiseError_next_iff]

theorem overflow_next_iff {s t : State} : overflow s = .next t ↔ t = { s with faulted := true } := by
  constructor
  · intro h; exact (Host.Outcome.next.inj h).symm
  · rintro rfl; rfl

@[simp] theorem exceeds_none (n : Nat) : exceeds none n = false := rfl

theorem exceeds_eq_true {cap : Option Nat} {n : Nat} : exceeds cap n = true ↔ ∃ m, cap = some m ∧ m < n := by
  cases cap <;> simp [exceeds]

theorem exceeds_eq_false {cap : Option Nat} {n : Nat} : exceeds cap n = false ↔ ∀ m, cap = some m → n ≤ m := by
  cases cap <;> simp [exceeds]

/-! ### Checksum and framing -/

@[simp] theorem ckfold_nil (v : U16) : ckfold v [] = v := rfl

@[simp] theorem ckfold_cons (v : U16) (b : Byte) (t : List Byte) : ckfold v (b :: t) = ckfold (ckstep v b) t := rfl

theorem ckfold_append (v : U16) (s t : List Byte) : ckfold v (s ++ t) = ckfold (ckfold v s) t := by
  induction s generalizing v with
  | nil => rfl
  | cons b s ih => exact ih (ckstep v b)

theorem esc_ne_nil (b : Byte) : esc b ≠ [] := by
  unfold esc; split <;> simp

theorem esc_length (b : Byte) : (esc b).length = if b = startByte then 2 else 1 := by
  unfold esc; split <;> rfl

theorem encPush_out (e : Encoder) (b : Byte) :
    (encPush e b).out = (if e.out = [] then [startByte, startByte] else e.out) ++ esc b := rfl

@[simp] theorem encPush_ck (e : Encoder) (b : Byte) : (encPush e b).ck = ckstep e.ck b := rfl

theorem encPush_out_ne_nil (e : Encoder) (b : Byte) : (encPush e b).out ≠ [] := by
  simp [encPush_out, esc_ne_nil]

/-! ### Decoder -/

@[simp] theorem decStateOf_code (st : DecState) : decStateOf st.code = some st := by
  cases st <;> rfl

theorem decStateOf_eq_some {c : BitVec 3} {st : DecState} : decStateOf c = some st ↔ c = st.code := by
  constructor
  · revert c; cases st <;> decide
  · rintro rfl; simp

theorem decStateOf_eq_none {c : BitVec 3} : decStateOf c = none ↔ c = 6 ∨ c = 7 := by
  revert c; decide

theorem DecState.code_toNat_le (st : DecState) : st.code.toNat ≤ 5 := by
  cases st <;> decide

theorem classify_cases (b : Byte) :
    (classify b = .start ∧ b = startByte) ∨ (classify b = .endMark ∧ b = endByte) ∨
      (classify b = .escaped ∧ b = escapedStart) ∨
      (classify b = .other ∧ b ≠ startByte ∧ b ≠ endByte ∧ b ≠ escapedStart) := by
  unfold classify
  split
  · exact .inl ⟨rfl, ‹_›⟩
  · split
    · exact .inr (.inl ⟨rfl, ‹_›⟩)
    · split
      · exact .inr (.inr (.inl ⟨rfl, ‹_›⟩))
      · exact .inr (.inr (.inr ⟨rfl, ‹_›, ‹_›, ‹_›⟩))

theorem BufAction.apply_of_not_grows {a : BufAction} (h : a.grows = false) (b : Byte) (buf : List Byte) :
    a.apply b buf = buf ∨ a.apply b buf = [] := by
  cases a <;> simp_all [BufAction.grows, BufAction.apply]

/-- Everything a byte can do to the block: the table's transition with its `DONE`, or an overflow of an append. -/
theorem consumeByte_next {c : ByteClass} {b : Byte} {s t : State} (h : consumeByte c b s = .next t) :
    ∃ st, s.decState = st.code ∧
      ((t = { s with faulted := true } ∧ (decTable st c).2.grows = true ∧
          exceeds s.params.decBufCap ((decTable st c).2.apply b s.decBuf).length = true) ∨
        (t = State.respond { s with decState := (decTable st c).1.code, decBuf := (decTable st c).2.apply b s.decBuf }
            (.okay (some (.done (doneBit st c)))) ∧
          ((decTable st c).2.grows = true →
            exceeds s.params.decBufCap ((decTable st c).2.apply b s.decBuf).length = false))) := by
  unfold consumeByte at h
  split at h
  · cases h
  · rename_i st hst
    refine ⟨st, decStateOf_eq_some.1 hst, ?_⟩
    simp only at h
    split at h
    · rename_i hov
      rw [Bool.and_eq_true] at hov
      exact .inl ⟨overflow_next_iff.1 h, hov⟩
    · rename_i hov
      refine .inr ⟨complete_next_iff.1 h, fun hg => ?_⟩
      simpa [hg] using hov

theorem consumeByte_fault {c : ByteClass} {b : Byte} {s : State} {f : Fault} (h : consumeByte c b s = .fault f) :
    f = .decStateUnassigned ∧ (s.decState = 6 ∨ s.decState = 7) := by
  unfold consumeByte at h
  split at h
  · rename_i hst
    cases h
    exact ⟨rfl, decStateOf_eq_none.1 hst⟩
  · simp only at h
    split at h <;> cases h

/-! ### Operands -/

@[simp] theorem packcode_length (s : List Byte) : (packcode s).length = codeBytes := by
  simp [packcode]

@[simp] theorem byteFlags_length (b : Byte) : (byteFlags b).length = 8 := by
  simp [byteFlags]

theorem unpackflags_cons (b : Byte) (d : List Byte) : unpackflags (b :: d) = byteFlags b ++ unpackflags d := rfl

theorem unpackflags_length (d : List Byte) : (unpackflags d).length = 8 * d.length := by
  induction d with
  | nil => rfl
  | cons b d ih => simp [unpackflags_cons, ih]; omega

theorem packflags_length (f : List Bool) : (packflags f).length = (f.length + 7) / 8 := by
  simp [packflags]

theorem checkcode_eq_ok {s : List Byte} : checkcode s = .ok () ↔ s.length = 16 ∧ ∀ c ∈ s, isCodeChar c = true := by
  unfold checkcode codeChars
  split
  · simp_all
  · split <;> simp_all

theorem checkcode_error {s : List Byte} {e : Status} (h : checkcode s = .error e) :
    (e = .codeLength ∧ s.length ≠ 16) ∨ (e = .codeChar ∧ s.length = 16 ∧ ∃ c ∈ s, isCodeChar c = false) := by
  unfold checkcode codeChars at h
  split at h
  · cases h; exact .inl ⟨rfl, ‹_›⟩
  · split at h
    · cases h
    · cases h; exact .inr ⟨rfl, by omega, by simp_all⟩

theorem checkflags_eq_ok {f : List Bool} {l : LengthSet} : checkflags f l = .ok () ↔ l.has f.length = true := by
  unfold checkflags; split <;> simp_all

theorem LengthSet.has_iff (l : LengthSet) (n : Nat) : l.has n = true ↔ n = l.first ∨ n ∈ l.more := by
  simp [LengthSet.has]

/-! ### Loading a configuration -/

@[simp] theorem lengthSet_eq_none {l : List Nat} : lengthSet l = none ↔ l = [] := by
  cases l <;> simp [lengthSet]

theorem lengthSet_has {l : List Nat} {ls : LengthSet} (h : lengthSet l = some ls) (n : Nat) :
    ls.has n = true ↔ n ∈ l := by
  cases l with
  | nil => cases h
  | cons m ms => cases h; simp [LengthSet.has_iff]

end Sys2Proof.Machine
end

