-- ==== Sys2Proof/Laws/Instances.lean ====
section
/-! SUPPORT. An instance of a system under its tables, and what one step of a system does to each place. -/

namespace Sys2Proof.Machine

open Sys2Proof

@[simp] theorem Member.under_ck (m : Member) (t : Tables) : (m.under t).ck = m.ck := rfl
@[simp] theorem Member.under_encCk (m : Member) (t : Tables) : (m.under t).encCk = m.encCk := rfl
@[simp] theorem Member.under_encOut (m : Member) (t : Tables) : (m.under t).encOut = m.encOut := rfl
@[simp] theorem Member.under_decState (m : Member) (t : Tables) : (m.under t).decState = m.decState := rfl
@[simp] theorem Member.under_decBuf (m : Member) (t : Tables) : (m.under t).decBuf = m.decBuf := rfl
@[simp] theorem Member.under_faulted (m : Member) (t : Tables) : (m.under t).faulted = m.faulted := rfl
@[simp] theorem Member.under_tables (m : Member) (t : Tables) : (m.under t).params.toTables = t := rfl
@[simp] theorem Member.under_caps (m : Member) (t : Tables) : (m.under t).params.toCaps = m.caps := rfl
@[simp] theorem Member.under_pending (m : Member) (t : Tables) : (m.under t).pending = m.pending := rfl
@[simp] theorem Member.under_responses (m : Member) (t : Tables) : (m.under t).responses = m.responses := rfl

/-- An instance is what is its own in its state. -/
@[simp] theorem Member.member_under (m : Member) (t : Tables) : (m.under t).member = m := rfl

/-- A state is its own part under its tables. -/
theorem State.under_member {s : State} {t : Tables} (h : s.params.toTables = t) : s.member.under t = s := by
  subst h; rfl

/-- What a step at place `k` does to place `j`. -/
theorem stepAt_getElem? (sys : Instances) (k j : Nat) :
    (stepAt sys k).members[j]? = if k = j then sys.members[j]?.map (advance sys.tables) else sys.members[j]? := by
  simp only [stepAt, List.getElem?_modify]
  split <;> simp

theorem loadTables_eq_none {rows : List RawRow} {named : List Byte} {texts : ResultTexts} :
    loadTables rows named texts = none ↔ loadRows [] rows = none := by
  simp [loadTables]

theorem loadTables_eq_some {rows : List RawRow} {named : List Byte} {texts : ResultTexts} {t : Tables} :
    loadTables rows named texts = some t ↔
      ∃ entries, loadRows [] rows = some entries ∧
        { catalog := { rows := entries, named := named }, resultTexts := texts } = t := by
  simp [loadTables]

/-- A system that is not refused holds the loaded tables, and its instances are reset. -/
theorem bootSystem_ok {c : SystemSetup} {sys : Instances} (h : bootSystem c = .ok sys) :
    (∀ m ∈ c.members, m.requesters ≤ 1) ∧ loadTables c.rows c.named c.resultTexts = some sys.tables ∧
      sys.members = c.members.map fun m => .next (State.fresh { toTables := sys.tables, toCaps := m.toCaps }).member := by
  unfold bootSystem at h
  split at h
  · cases h
  · rename_i hr
    split at h
    · cases h
    · rename_i t ht
      cases h
      exact ⟨by simpa using hr, ht, rfl⟩

end Sys2Proof.Machine
end

