-- ==== Sys2Proof/Laws/PerInstr.lean ====
section
/-! SUPPORT. Per instruction: the encoding carries the opcode-table row's own bits (R81, R73). -/

namespace Sys2Proof.Laws.OpcodeBits

open Sys2Proof

/-- The `OP` field of a port row (R81); a wire row has none. -/
def rowOp : Instr → Option Nat
  | .ckInit => some 0x0
  | .ckAdd _ => some 0x1
  | .ckRead => some 0x2
  | .encAdd _ => some 0x3
  | .encFrame => some 0x4
  | .decAdd _ => some 0x5
  | .decFrame => some 0x6
  | .decReset => some 0x7
  | .msgEncNodata _ => some 0x8
  | .msgEncSel _ => some 0x9
  | .msgEncAuth _ _ _ => some 0xA
  | .msgDecode _ => some 0xB
  | .msgDispatch => some 0xC
  | .wireStart | .wireEnd | .wireEscapedStart | .wireOther _ => none

/-- The word of the encoded instruction holds its row's `OP` in bits 11 to 8; a wire row is no request. -/
def Statement (i : Instr) : Prop :=
  match encode i with
  | .request r => rowOp i = some (r.word.toNat / 256)
  | .wire _ => rowOp i = none

theorem mkWord_div (op : BitVec 4) (d : Byte) : (mkWord op d).toNat / 256 = op.toNat := by
  have hd := d.isLt
  simp only [mkWord, BitVec.toNat_append, Nat.shiftLeft_eq]
  rw [← Nat.shiftLeft_eq, ← Nat.shiftLeft_add_eq_or_of_lt hd, Nat.shiftLeft_eq]
  omega

theorem ckInit : Statement .ckInit := by simp [Statement, encode, rowOp, mkWord_div]
theorem ckAdd (b : Byte) : Statement (.ckAdd b) := by simp [Statement, encode, rowOp, mkWord_div]
theorem ckRead : Statement .ckRead := by simp [Statement, encode, rowOp, mkWord_div]
theorem encAdd (b : Byte) : Statement (.encAdd b) := by simp [Statement, encode, rowOp, mkWord_div]
theorem encFrame : Statement .encFrame := by simp [Statement, encode, rowOp, mkWord_div]
theorem decAdd (b : Byte) : Statement (.decAdd b) := by simp [Statement, encode, rowOp, mkWord_div]
theorem decFrame : Statement .decFrame := by simp [Statement, encode, rowOp, mkWord_div]
theorem decReset : Statement .decReset := by simp [Statement, encode, rowOp, mkWord_div]
theorem msgEncNodata (cmd : Byte) : Statement (.msgEncNodata cmd) := by simp [Statement, encode, rowOp, mkWord_div]
theorem msgEncSel (cmd : Byte) : Statement (.msgEncSel cmd) := by simp [Statement, encode, rowOp, mkWord_div]
theorem msgEncAuth (cmd : Byte) (code : List Byte) (flags : List Bool) : Statement (.msgEncAuth cmd code flags) := by
  simp [Statement, encode, rowOp, mkWord_div]
theorem msgDecode (raw : List Byte) : Statement (.msgDecode raw) := by simp [Statement, encode, rowOp, mkWord_div]
theorem msgDispatch : Statement .msgDispatch := by simp [Statement, encode, rowOp, mkWord_div]
theorem wireStart : Statement .wireStart := rfl
theorem wireEnd : Statement .wireEnd := rfl
theorem wireEscapedStart : Statement .wireEscapedStart := rfl
theorem wireOther (b : Byte) : Statement (.wireOther b) := rfl

end Sys2Proof.Laws.OpcodeBits
end

