-- ==== Sys2Proof/Laws/Step.lean ====
section
/-! SUPPORT. Everything a step can do. -/

namespace Sys2Proof.Machine

open Sys2Proof

/-- A step that answers a next state reset the block, or performed the instruction the port accepted, or answered
`E_ILLEGAL_OP`, or found nothing pending. -/
theorem step_next {s t : State} (h : step s = .next t) :
    (∃ rest, s.pending = .reset :: rest ∧ t = (s.consume rest).resetBlock) ∨
      (∃ p rest i, s.pending = .packet p :: rest ∧ s.faulted = false ∧ accept s.params.seqCap p = .ok i ∧
        exec i (s.consume rest) = .next t) ∨
      (∃ p rest e, s.pending = .packet p :: rest ∧ s.faulted = false ∧ accept s.params.seqCap p = .error e ∧
        t = (s.consume rest).respond (.failed .illegalOp)) ∨
      (s.pending = [] ∧ s.faulted = false ∧ t = s) := by
  unfold step at h
  split at h
  · rename_i rest hp
    exact .inl ⟨rest, hp, (Host.Outcome.next.inj h).symm⟩
  · rename_i p rest hp
    split at h
    · cases h
    · rename_i hf
      have hf : s.faulted = false := by simpa using hf
      split at h
      · rename_i i hi
        exact .inr (.inl ⟨p, rest, i, hp, hf, hi, h⟩)
      · rename_i e he
        exact .inr (.inr (.inl ⟨p, rest, e, hp, hf, he, raiseError_next_iff.1 h⟩))
  · rename_i hp
    split at h
    · cases h
    · rename_i hf
      exact .inr (.inr (.inr ⟨hp, by simpa using hf, (Host.Outcome.next.inj h).symm⟩))

/-- What a port accepts it decodes. -/
theorem decode_of_accept {cap : Option Nat} {p : Packet} {i : Instr} (h : accept cap p = .ok i) : decode p = .ok i := by
  cases p with
  | wire b => exact h
  | request r =>
    simp only [accept] at h
    split at h
    · cases h
    · exact h

end Sys2Proof.Machine
end

