-- ==== Sys2Proof/Laws/Run.lean ====
section
/-! SUPPORT. The requests still pending do not matter to a meaning, so a run of a program is its requests one after the
other. -/

namespace Sys2Proof.Machine

open Sys2Proof

/-- The outcome with `q` pending. -/
def withPending (q : List Event) : Host.Outcome State Fault Refusal → Host.Outcome State Fault Refusal
  | .next t => .next { t with pending := q }
  | .fault f => .fault f
  | .refused r => .refused r

theorem consumeByte_withPending (c : ByteClass) (b : Byte) (s : State) (q : List Event) :
    consumeByte c b { s with pending := q } = withPending q (consumeByte c b s) := by
  simp only [consumeByte]
  cases decStateOf s.decState with
  | none => rfl
  | some st => simp only; split <;> rfl

/-- No meaning reads what is pending. -/
theorem exec_withPending (i : Instr) (s : State) (q : List Event) :
    exec i { s with pending := q } = withPending q (exec i s) := by
  cases i with
  | encAdd b =>
    rcases h : exceeds s.params.encOutCap (encPush { out := s.encOut, ck := s.encCk } b).out.length with _ | _ <;>
      simp [exec, execEncAdd, State.encoder, h, overflow, complete, State.respond, withPending]
  | encFrame =>
    rcases h : exceeds s.params.encOutCap (encClose { out := s.encOut, ck := s.encCk }).length with _ | _ <;>
      simp [exec, execEncFrame, State.encoder, h, overflow, complete, State.respond, withPending]
  | decAdd b => exact consumeByte_withPending _ _ s q
  | wireStart => exact consumeByte_withPending _ _ s q
  | wireEnd => exact consumeByte_withPending _ _ s q
  | wireEscapedStart => exact consumeByte_withPending _ _ s q
  | wireOther b => exact consumeByte_withPending _ _ s q
  | msgDispatch =>
    simp only [exec, execMsgDispatch]
    split <;> rfl
  | _ => rfl

/-- No meaning sends or takes a request. -/
theorem exec_pending {i : Instr} {s t : State} (h : exec i s = .next t) : t.pending = s.pending := by
  have hs := exec_withPending i s s.pending
  rw [show ({ s with pending := s.pending } : State) = s from rfl, h] at hs
  simp only [withPending, Host.Outcome.next.injEq] at hs
  rw [hs]

/-- What the packet `p` does to a live instance, whatever is pending. -/
def performOne (p : Packet) (s : State) : Host.Outcome State Fault Refusal :=
  match accept s.params.seqCap p with
  | .ok i => exec i s
  | .error _ => fails .illegalOp s

theorem performOne_pending {p : Packet} {s t : State} (h : performOne p s = .next t) : t.pending = s.pending := by
  unfold performOne at h
  split at h
  · exact exec_pending h
  · cases h; rfl

theorem perform_nil (s : State) (h : s.pending = []) : perform [] s = .next s := by
  cases s; simp only at h; subst h; rfl

/-- A run takes its first request and goes on from there. -/
theorem perform_cons {p : Packet} {ps : List Packet} {s t : State} (h : s.pending = []) (hf : s.faulted = false)
    (h1 : performOne p s = .next t) : perform (p :: ps) s = perform ps t := by
  have hstep : step (s.load (p :: ps)) = .next (t.load ps) := by
    have ht : (.next (t.load ps) : Host.Outcome State Fault Refusal) = withPending (ps.map .packet) (performOne p s) := by
      rw [h1]; simp [withPending, State.load, performOne_pending h1, h]
    have hp : (s.load (p :: ps)).pending = .packet p :: ps.map .packet := by simp [h]
    have hl : (s.load (p :: ps)).faulted = false := hf
    have he : (s.load (p :: ps)).consume (ps.map .packet) = { s with pending := ps.map .packet } := rfl
    rw [ht]
    simp only [step, hp, hl, he, Bool.false_eq_true, if_false, State.load_params, performOne]
    cases accept s.params.seqCap p with
    | ok i => exact exec_withPending i s (ps.map .packet)
    | error e => rfl
  have hc : Sys2Proof.core.step (s.load (p :: ps)) = .next (t.load ps) := hstep
  unfold perform
  simp only [List.length_cons, Host.Core.run, hc]
  rfl

/-- An operand-free request is never over-long. -/
theorem accept_bare (cap : Option Nat) (w : BitVec 12) :
    accept cap (.request { word := w }) = decodeRequest { word := w } := by
  cases cap <;> simp [accept, Request.tooLong, exceeds]

end Sys2Proof.Machine
end

