-- ==== Sys2Proof/Tests/Slice0.lean ====
section
/-! SUPPORT. The model's own tests. Expected results are the spec's (95_test_vectors.md, by their names there) or written
out from the rule named. Then, for each statement with hypotheses, a state and operands that meet them. -/

namespace Sys2Proof.Tests

open Sys2Proof Sys2Proof.Machine

/-! ### Helpers -/

/-- The entries of CAT_T (95_test_vectors.md section 0), a catalog for testing only. -/
def catT : Catalog where
  rows :=
    [(0x00, { noData := true, noDataSel := true, ans := some (.flagArray { first := 16, more := [32] }) }),
     (0x0A, { noData := true, ans := some (.flagArray { first := 4, more := [] }) }),
     (0x17, { noData := true, noDataSel := true, ans := some (.flagArray { first := 16, more := [32] }) }),
     (0x7F, { noData := true, ans := some .changeNotify }),
     (0x80, { flagsAuth := some { first := 32, more := [] } }),
     (0x86, { flagsAuth := some { first := 128, more := [256] } }),
     (0x88, { flagsAuth := some { first := 128, more := [256] } }),
     (0xEF, { ans := some .result })]
  named := [0x17, 0x2C]

/-- Texts for testing only. -/
def texts : ResultTexts :=
  { ok := "ok", userCodeNotFound := "a", noAccess := "b", userDoesNotExist := "c", userAlreadyExists := "d",
    wrongOrDuplicateCode := "e", telephoneCodeExists := "f", unchangedCode := "g", otherError := "h",
    canForceArm := "i", cannotArm := "j" }

/-- The reset state with CAT_T. -/
def s0 : State := State.fresh { catalog := catT, resultTexts := texts }

/-- The reset state with CAT_T and the three capacities all `n`. -/
def capped (n : Nat) : State :=
  State.fresh { catalog := catT, resultTexts := texts, decBufCap := some n, encOutCap := some n, seqCap := some n }

/-- `s` with the decoder in the state of code `c` and the buffer `buf`. -/
def inDec (s : State) (c : BitVec 3) (buf : List Byte) : State := { s with decState := c, decBuf := buf }

/-- `s` with one packet sent to it. -/
def sent (p : Packet) (s : State) : State := { s with pending := [.packet p] }

/-- The next state, if there is one. -/
def next? : Host.Outcome State Fault Refusal → Option State
  | .next t => some t
  | .fault _ => none
  | .refused _ => none

/-- The fault, if there is one. -/
def fault? : Host.Outcome State Fault Refusal → Option Fault
  | .next _ => none
  | .fault f => some f
  | .refused _ => none

/-- One step on the packet `p` from `s`: the response given. -/
def answer (p : Packet) (s : State) : Option Response := (next? (step (sent p s))).bind fun t => t.responses.getLast?

/-- One step on the packet `p` from `s`: the mutable state after. -/
def after (p : Packet) (s : State) : Option Tuple := (next? (step (sent p s))).map State.tuple

/-- A response with status OK and a value. -/
def okay (v : Value) : Option Response := some { status := .ok, value := some v }

/-- A response with status OK and no value. -/
def okayNone : Option Response := some { status := .ok, value := none }

/-- An error response. -/
def error (e : Status) : Option Response := some { status := e, value := none }

/-- The characters of "1234FFFFFFFFFFFF" in ASCII. -/
def code16 : List Byte :=
  [0x31, 0x32, 0x33, 0x34, 0x46, 0x46, 0x46, 0x46, 0x46, 0x46, 0x46, 0x46, 0x46, 0x46, 0x46, 0x46]

/-- `n` flags, flag 0 true. -/
def flag0 (n : Nat) : List Bool := true :: List.replicate (n - 1) false

/-! ### WellFormed: each check refuses its ill-formed term (R73) -/

theorem test_wf_other_not_start : ¬ WellFormed (.wireOther 0xFE) := by decide
theorem test_wf_other_not_end : ¬ WellFormed (.wireOther 0x0D) := by decide
theorem test_wf_other_not_escaped_start : ¬ WellFormed (.wireOther 0xF0) := by decide

/-! ### Decode: a word of every row, written out from R80 and R81 (`OP` in bits 11 to 8, `DATA` in bits 7 to 0) and R73 -/

theorem test_decode_ck_init : decode (.request { word := 0b0000_00000000#12 }) = .ok .ckInit := by decide
theorem test_decode_ck_add : decode (.request { word := 0b0001_11100000#12 }) = .ok (.ckAdd 0xE0) := by decide
theorem test_decode_ck_read : decode (.request { word := 0b0010_00000000#12 }) = .ok .ckRead := by decide
theorem test_decode_enc_add : decode (.request { word := 0b0011_11111110#12 }) = .ok (.encAdd 0xFE) := by decide
theorem test_decode_enc_frame : decode (.request { word := 0b0100_00000000#12 }) = .ok .encFrame := by decide
theorem test_decode_dec_add : decode (.request { word := 0b0101_00001101#12 }) = .ok (.decAdd 0x0D) := by decide
theorem test_decode_dec_frame : decode (.request { word := 0b0110_00000000#12 }) = .ok .decFrame := by decide
theorem test_decode_dec_reset : decode (.request { word := 0b0111_00000000#12 }) = .ok .decReset := by decide
theorem test_decode_msg_enc_nodata :
    decode (.request { word := 0b1000_00001010#12 }) = .ok (.msgEncNodata 0x0A) := by decide
theorem test_decode_msg_enc_sel : decode (.request { word := 0b1001_00010111#12 }) = .ok (.msgEncSel 0x17) := by decide
theorem test_decode_msg_enc_auth :
    decode (.request { word := 0b1010_10000000#12, code := some code16, flags := some [true] }) =
      .ok (.msgEncAuth 0x80 code16 [true]) := by decide
theorem test_decode_msg_decode :
    decode (.request { word := 0b1011_00000000#12, raw := some [0xFE, 0x0D] }) = .ok (.msgDecode [0xFE, 0x0D]) := by decide
theorem test_decode_msg_dispatch : decode (.request { word := 0b1100_00000000#12 }) = .ok .msgDispatch := by decide
theorem test_decode_wire_start : decode (.wire 0b11111110#8) = .ok .wireStart := by decide
theorem test_decode_wire_end : decode (.wire 0b00001101#8) = .ok .wireEnd := by decide
theorem test_decode_wire_escaped_start : decode (.wire 0b11110000#8) = .ok .wireEscapedStart := by decide
theorem test_decode_wire_other : decode (.wire 0b00110011#8) = .ok (.wireOther 0x33) := by decide

/-- PORT-2, PORT-4: reserved `OP`, reserved `DATA`. -/
theorem test_decode_reserved :
    decode (.request { word := 0xD00#12 }) = .error .reservedOp ∧ decode (.request { word := 0xFFF#12 }) = .error .reservedOp ∧
    decode (.request { word := 0x701#12 }) = .error .reservedData ∧
    decode (.request { word := 0xC01#12 }) = .error .reservedData := by decide

/-- PORT-5, PORT-7, PORT-8: a missing and an extra operand. -/
theorem test_decode_operands :
    decode (.request { word := 0xB00#12 }) = .error .missingOperand ∧
    decode (.request { word := 0xA80#12, code := some code16 }) = .error .missingOperand ∧
    decode (.request { word := 0x1E0#12, raw := some [] }) = .error .extraOperand := by decide

/-- R85's examples: the written form and the word. -/
theorem test_assembler :
    asm (.ckAdd 0xE0) = some "CK_ADD 0xE0" ∧ hexWord (mkWord 0x1 0xE0) = "1E0" ∧
    asm (.msgEncAuth 0x80 code16 (flag0 32)) =
      some ("MSG_ENC_AUTH 0x80, \"1234FFFFFFFFFFFF\", " ++ String.ofList [Char.ofNat 123, '0', Char.ofNat 125] ++ "/32") ∧
    asm (.msgDecode [0xFE, 0xFE, 0xEF, 0xFF, 0x4F, 0xA9, 0xFE, 0x0D]) = some "MSG_DECODE [FE FE EF FF 4F A9 FE 0D]" := by
  decide

/-- R86: a pseudo-operation is its requests in order; an empty list is none. -/
theorem test_pseudo :
    Pseudo.expand (.decAdds [0xFE, 0x0D]) = [.decAdd 0xFE, .decAdd 0x0D] ∧ Pseudo.expand (.ckAdds []) = [] := by decide

/-! ### One step of every instruction -/

/-- P1, line 8. -/
theorem test_ck_init : (after (encode .ckInit) { s0 with ck := 0x8A9B }).map Tuple.ck = some 0x147A := by decide

/-- P1, line 1. -/
theorem test_ck_add : (after (encode (.ckAdd 0xE0)) s0).map Tuple.ck = some 0xD8C2 := by decide

/-- CK-16: the sum wraps. -/
theorem test_ck_add_wraps : (after (encode (.ckAdd 0xFF)) { s0 with ck := 0x0000 }).map Tuple.ck = some 0x01FD := by decide

/-- P1, line 6. -/
theorem test_ck_read : answer (encode .ckRead) { s0 with ck := 0x8A9B } = okay (.word 0x8A9B) := by decide

/-- P2, line 1: the start pair goes ahead of the first byte. -/
theorem test_enc_add_first : (after (encode (.encAdd 0x09)) s0).map (fun t => (t.encOut, t.encCk)) =
    some ([0xFE, 0xFE, 0x09], 0xD7EB) := by decide

/-- P2, line 2: `0xFE` is escaped in the buffer and not in the checksum. -/
theorem test_enc_add_escapes :
    (after (encode (.encAdd 0xFE)) { s0 with encOut := [0xFE, 0xFE, 0x09], encCk := 0xD7EB }).map
      (fun t => (t.encOut, t.encCk)) = some ([0xFE, 0xFE, 0x09, 0xFE, 0xF0], 0x5176) := by decide

/-- P2, line 5: the low checksum byte is escaped. -/
theorem test_enc_frame :
    answer (encode .encFrame) { s0 with encOut := [0xFE, 0xFE, 0x1C], encCk := 0xD7FE } =
      okay (.bytes [0xFE, 0xFE, 0x1C, 0xD7, 0xFE, 0xF0, 0xFE, 0x0D]) := by decide

/-- P2, line 3: the encoder starts over. -/
theorem test_enc_frame_clears :
    (after (encode .encFrame) { s0 with encOut := [0xFE, 0xFE, 0x09], encCk := 0xD7EB }).map
      (fun t => (t.encOut, t.encCk)) = some ([], 0x147A) := by decide

/-- P3, line 13: the byte that completes a frame. -/
theorem test_dec_add_done :
    answer (encode (.decAdd 0x0D)) (inDec s0 4 [0xEF, 0xFF, 0x4F, 0xA9]) = okay (.done true) := by decide

/-- DEC-30: an escaped `0xFE` is restored. -/
theorem test_dec_add_escape :
    (after (encode (.decAdd 0xF0)) (inDec s0 4 [0x33])).map (fun t => (t.decState, t.decBuf)) =
      some (3, [0x33, 0xFE]) := by decide

/-- DEC-26: a partial buffer. -/
theorem test_dec_frame : answer (encode .decFrame) (inDec s0 3 [0x33, 0x44]) = okay (.bytes [0x33, 0x44]) := by decide

/-- DEC-27. -/
theorem test_dec_reset :
    (after (encode .decReset) (inDec s0 3 [0x33, 0x44])).map (fun t => (t.decState, t.decBuf)) = some (0, []) := by decide

/-- ME-1. -/
theorem test_msg_enc_nodata :
    answer (encode (.msgEncNodata 0x0A)) s0 = okay (.bytes [0xFE, 0xFE, 0x0A, 0xD7, 0xEC, 0xFE, 0x0D]) := by decide

/-- ME-10. -/
theorem test_msg_enc_nodata_not_in_catalog : answer (encode (.msgEncNodata 0xEF)) s0 = error .notInCatalog := by decide

/-- ME-6. -/
theorem test_msg_enc_sel :
    answer (encode (.msgEncSel 0x17)) s0 = okay (.bytes [0xFE, 0xFE, 0x17, 0x00, 0x50, 0x5C, 0xFE, 0x0D]) := by decide

/-- ME-7. -/
theorem test_msg_enc_sel_not_in_catalog : answer (encode (.msgEncSel 0x0A)) s0 = error .notInCatalog := by decide

/-- ME-11. -/
theorem test_msg_enc_auth :
    answer (encode (.msgEncAuth 0x80 code16 (flag0 32))) s0 =
      okay (.bytes [0xFE, 0xFE, 0x80, 0x12, 0x34, 0xFF, 0xFF, 0xFF, 0xFF, 0xFF, 0xFF, 0x01, 0x00, 0x00, 0x00, 0x9D, 0x9E,
        0xFE, 0x0D]) := by decide +kernel

/-- ME-22, ME-17, ME-25, ME-19, ME-23: the order of the checks. -/
theorem test_msg_enc_auth_errors :
    answer (encode (.msgEncAuth 0x86 [0x31, 0x32] (flag0 32))) s0 = error .codeLength ∧
    answer (encode (.msgEncAuth 0x80 (code16.set 4 0x41) (flag0 32))) s0 = error .codeChar ∧
    answer (encode (.msgEncAuth 0x80 (code16.set 3 0x41) (flag0 31))) s0 = error .codeChar ∧
    answer (encode (.msgEncAuth 0x80 code16 (flag0 31))) s0 = error .flagsLength ∧
    answer (encode (.msgEncAuth 0x0A [0x31, 0x32] (flag0 32))) s0 = error .notInCatalog := by decide +kernel

/-- MD-36: the first frame, whatever follows it. -/
theorem test_msg_decode :
    answer (encode (.msgDecode [0xFE, 0xFE, 0xEF, 0xFF, 0x4F, 0xA9, 0xFE, 0x0D, 0xFE, 0xFE, 0xEF, 0xEE, 0x4F, 0x98, 0xFE,
      0x0D])) s0 = okay (.answer (some (.result 0xEF 0xFF))) := by decide

/-- MD-19, MD-32, MD-33: an escaped data byte, a wrong checksum, no frame. -/
theorem test_msg_decode_more :
    answer (encode (.msgDecode [0xFE, 0xFE, 0x0A, 0xFE, 0xF0, 0x00, 0x00, 0x00, 0x75, 0xBC, 0xFE, 0x0D])) s0 =
      okay (.answer (some (.flags 0x0A (false :: List.replicate 7 true ++ List.replicate 24 false)))) ∧
    answer (encode (.msgDecode [0xFE, 0xFE, 0xEF, 0xFF, 0x4E, 0xA9, 0xFE, 0x0D])) s0 = okay (.answer none) ∧
    answer (encode (.msgDecode [0xFE, 0xFE, 0xEF, 0xFF, 0x4F, 0xA9, 0xFE])) s0 = okay (.answer none) := by decide +kernel

/-- P6, line 12. -/
theorem test_msg_dispatch :
    answer (encode .msgDispatch) (inDec s0 5 [0xEF, 0x11, 0x4E, 0xBB]) = okay (.answer (some (.result 0xEF 0x11))) := by
  decide

/-- P3, line 17. -/
theorem test_msg_dispatch_none : answer (encode .msgDispatch) (inDec s0 1 []) = okay (.answer none) := by decide

/-- DEC-15, as a byte on the wire. -/
theorem test_wire_start :
    (after (.wire 0xFE) (inDec s0 5 [0x09, 0xD7, 0xEB])).map (fun t => (t.decState, t.decBuf)) = some (1, []) := by decide

/-- DEC-7, first data byte, as a byte on the wire. -/
theorem test_wire_end :
    (after (.wire 0x0D) (inDec s0 2 [])).map (fun t => (t.decState, t.decBuf)) = some (3, [0x0D]) := by decide

/-- DEC-13, as a byte on the wire. -/
theorem test_wire_escaped_start :
    (after (.wire 0xF0) (inDec s0 3 [0x09])).map (fun t => (t.decState, t.decBuf)) = some (3, [0x09, 0xF0]) := by decide

/-- DEC-8, as a byte on the wire. -/
theorem test_wire_other :
    (after (.wire 0x33) (inDec s0 4 [0x09])).map (fun t => (t.decState, t.decBuf)) = some (0, []) := by decide

/-- PORT-3: an error keeps the state. -/
theorem test_port_error_keeps_state :
    answer (.request { word := 0x401#12 }) { s0 with encOut := [0xFE, 0xFE, 0x09], encCk := 0xD7EB } = error .illegalOp ∧
    (after (.request { word := 0x401#12 }) { s0 with encOut := [0xFE, 0xFE, 0x09], encCk := 0xD7EB }).map
      (fun t => (t.encOut, t.encCk)) = some ([0xFE, 0xFE, 0x09], 0xD7EB) := by decide

/-- PORT-10: `SEQ_CAP` is 4. -/
theorem test_seq_cap :
    answer (encode (.msgDecode [0xFE, 0xFE, 0xEF, 0xFF, 0x4F, 0xA9, 0xFE, 0x0D])) (capped 4) = error .illegalOp := by decide

/-- R253: an append past the capacity faults the instance, an append up to it does not. -/
theorem test_overflow :
    (next? (step (sent (encode (.decAdd 0x33)) (inDec (capped 2) 3 [0x09, 0x33])))).map State.faulted = some true ∧
    (next? (step (sent (encode (.decAdd 0x33)) (inDec (capped 2) 3 [0x09])))).map State.faulted = some false ∧
    fault? (step (sent (encode .ckRead) { capped 2 with faulted := true })) = some .faultOverflow := by decide

/-- AC-2 to AC-7. -/
theorem test_accessors :
    (Answer.flags 0x00 (true :: List.replicate 126 false ++ [true])).flag 127 = some true ∧
    (Answer.flags 0x00 (true :: List.replicate 126 false ++ [true])).flag 128 = none ∧
    (Answer.change 0x7F (unpackflags [0x01, 0x00, 0x80, 0x00, 0x00])).changed 0x17 = some true ∧
    (Answer.change 0x7F (unpackflags [0x01, 0x00, 0x80, 0x00, 0x00])).changed 0x2C = none ∧
    (Answer.change 0x7F (unpackflags [0x00, 0x00, 0x00, 0x00, 0x00, 0x10, 0x80])).changed 0x2C = some true := by
  decide +kernel

/-- AC-9, AC-11: a result's kind and text. -/
theorem test_result_text :
    (Answer.result 0xEF 0xFF).resultKind? = some .commandAccepted ∧
    (Answer.result 0xEF 0xEE).resultText? texts = some "Unknown result code" := by decide

/-- D21: an empty length set, two FlagsAuth and a repeated code are refused before the first request. -/
theorem test_boot_refuses :
    (loadRow { code := 0x80, enc := [.flagsAuth []], ans := none } = none) ∧
    (loadRow { code := 0x80, enc := [.flagsAuth [32], .flagsAuth [32]], ans := none } = none) ∧
    (loadRows [] [{ code := 0x80, enc := [.noData], ans := none }, { code := 0x80, enc := [], ans := none }] = none) := by
  decide

/-! ### Witnesses: the hypotheses of each statement are met together -/

theorem s0_ready : Ready s0 := ⟨rfl, rfl, rfl, rfl⟩

/-- A decoder in the middle of a frame. -/
def mid : State := inDec s0 4 [0x33]

theorem mid_ready : Ready mid := ⟨rfl, rfl, rfl, rfl⟩
theorem s0_decoder_sound : DecoderSound s0 := by unfold DecoderSound; decide
theorem mid_decoder_sound : DecoderSound mid := by unfold DecoderSound; decide
theorem s0_sound : Sound s0 :=
  ⟨.inl ⟨rfl, rfl⟩, s0_decoder_sound, ⟨(by intro n h; cases h), (by intro n h; cases h), by decide⟩⟩

/-- The full encoder and decoder of a bounded instance: each buffer as long as its capacity. -/
def full : State :=
  { inDec (capped 4) 3 [0x01, 0x02, 0x03, 0x04] with encOut := [0xFE, 0xFE, 0x09, 0x1C], encCk := ckfold seed [0x09, 0x1C] }

theorem full_sound : Sound full :=
  ⟨.inr ⟨[0x09, 0x1C], by decide, by decide, rfl⟩, by unfold DecoderSound; decide,
    ⟨by intro n h; cases h; decide, by intro n h; cases h; decide, by decide⟩⟩

theorem wit_EncodeThenDecode :
    WellFormed (.msgEncAuth 0xFE [] [true]) ∧ WellFormed (.wireOther 0xFD) ∧ WellFormed (.wireOther 0x0C) ∧
      WellFormed (.wireOther 0xF1) ∧ WellFormed .ckInit := by decide

theorem wit_DecodeThenEncode :
    decode (.request { word := 0x1FF#12 }) = .ok (.ckAdd 0xFF) ∧ decode (.wire 0xFF) = .ok (.wireOther 0xFF) := by decide

/-- An operand exactly as long as `SEQ_CAP`. -/
theorem wit_StepRunsDecodedInstruction :
    let r : Request := { word := 0xB00#12, raw := some [0xFE, 0xFE, 0x09, 0x0D] }
    (sent (.request r) (capped 4)).pending = [.packet (.request r)] ∧ (sent (.request r) (capped 4)).faulted = false ∧
      decode (.request r) = .ok (.msgDecode [0xFE, 0xFE, 0x09, 0x0D]) ∧ r.tooLong (capped 4).params.seqCap = false := by
  decide

/-- What AnsweredIllegal assumes of a state. -/
theorem wit_AnsweredIllegal (r : Request) :
    (sent (.request r) s0).pending = .packet (.request r) :: [] ∧ (sent (.request r) s0).faulted = false := ⟨rfl, rfl⟩

theorem wit_IllegalRequestAnsweredIllegalOp :
    PortIllegal { word := 0xD00#12 } ∧ PortIllegal { word := 0xC01#12 } ∧ PortIllegal { word := 0x0FF#12 } ∧
      PortIllegal { word := 0xA80#12, raw := some [], code := some [], flags := some [] } ∧ PortIllegal { word := 0xB00#12 } ∧
      PortIllegal { word := 0xB00#12, raw := some [], flags := some [] } ∧
      PortIllegal { word := 0xA80#12, code := some [] } ∧
      ¬ PortIllegal { word := 0xC00#12 } ∧ ¬ PortIllegal { word := 0x1FF#12 } ∧
      ¬ PortIllegal { word := 0xB00#12, raw := some [] } ∧
      ¬ PortIllegal { word := 0xA80#12, code := some [], flags := some [] } := by
  simp [PortIllegal]

theorem wit_OverlongOperandRefused :
    (capped 4).params.seqCap = some 4 ∧ 4 < [0xFE#8, 0xFE, 0x09, 0xFE, 0x0D].length ∧ 4 < (flag0 5).length ∧
      (sent (.request { word := 0xB00#12, raw := some [0xFE, 0xFE, 0x09, 0xFE, 0x0D] }) (capped 4)).pending =
        .packet (.request { word := 0xB00#12, raw := some [0xFE, 0xFE, 0x09, 0xFE, 0x0D] }) :: [] ∧
      (sent (.request { word := 0xA80#12, code := some [0x31, 0x32, 0x33, 0x34, 0x46], flags := some (flag0 5) })
        (capped 4)).faulted = false := by decide

/-- The non-zero `DATA` of CK_INIT, CK_READ, ENC_FRAME, DEC_FRAME, DEC_RESET, MSG_DECODE and MSG_DISPATCH. -/
theorem wit_reserved_data : (0x01#8 : Byte) ≠ 0 ∧ (0xFF#8 : Byte) ≠ 0 := by decide

/-- CK-15 (`k` is 0xFE) and CK-14's last step (`k` is 0). -/
theorem wit_CkstepCollisions :
    ((0x0000#16 : U16) ≠ 0xFF80#16 ∧ ckstep 0x0000 0x00 = ckstep 0xFF80 0x00) ∧
      ((0xFFFF#16 : U16) ≠ 0x007F#16 ∧ ckstep 0xFFFF 0x00 = ckstep 0x007F 0x00) := by decide

theorem wit_CkAddsFoldInOrder : Ready s0 := s0_ready

/-- Output exactly as long as `ENC_OUT_CAP`. -/
theorem wit_EncAddAppendsEscapedByte : EncFits (capped 3) (encOutAfter (capped 3).encOut 0x09) := by
  intro n h; cases h; decide

theorem wit_EncFrameReturnsFrame : EncFits (capped 4) (closedFrame (capped 4).encOut (capped 4).encCk) := by
  intro n h; cases h; decide

theorem wit_EscapeRule : (startByte = 0xFE#8) ∧ (0xFF#8 : Byte) ≠ 0xFE#8 ∧ (0xF0#8 : Byte) ≠ 0xFE#8 := by decide

theorem wit_FrameOfIsWireFrame : ([0xFE#8] : List Byte) ≠ [] := by decide

theorem wit_ShortestFrameIsSevenBytes : ([0x09#8] : List Byte) ≠ [] := by decide

theorem wit_EncodingAMessageReturnsItsFrame :
    Ready s0 ∧ s0.encOut = [] ∧ s0.encCk = 0x147A#16 ∧ ([0x09#8, 0xFE#8] : List Byte) ≠ [] :=
  ⟨s0_ready, rfl, rfl, by decide⟩

/-- A buffer exactly as long as `DEC_BUF_CAP` fits. -/
theorem dec_fits_at_cap (c : BitVec 3) (x b : Byte) : DecFits (inDec (capped 2) c [x]) ((inDec (capped 2) c [x]).decBuf ++ [b]) := by
  intro n h; cases h; exact Nat.le_refl 2

/-- One byte for each clause of the transition table, the appending ones at the capacity. -/
theorem wit_DecAddFollowsTable :
    ((inDec s0 0 []).decState = 0 ∧ (inDec s0 1 []).decState = 1 ∧ (inDec s0 5 [0x09]).decState = 5) ∧
      ((inDec (capped 2) 2 [0x09]).decState = 2 ∧ (0x0D#8 : Byte) ≠ 0xFE#8 ∧
        DecFits (inDec (capped 2) 2 [0x09]) ((inDec (capped 2) 2 [0x09]).decBuf ++ [0x0D])) ∧
      ((inDec (capped 2) 3 [0x09]).decState = 3 ∧ (0xF0#8 : Byte) ≠ 0xFE#8 ∧
        DecFits (inDec (capped 2) 3 [0x09]) ((inDec (capped 2) 3 [0x09]).decBuf ++ [0xF0])) ∧
      ((inDec (capped 2) 4 [0x09]).decState = 4 ∧
        DecFits (inDec (capped 2) 4 [0x09]) ((inDec (capped 2) 4 [0x09]).decBuf ++ [0xFE])) ∧
      ((0x33#8 : Byte) ≠ 0xFE#8 ∧ (0x33#8 : Byte) ≠ 0x0D#8 ∧ (0x33#8 : Byte) ≠ 0xF0#8) :=
  ⟨by decide, ⟨rfl, by decide, dec_fits_at_cap _ _ _⟩, ⟨rfl, by decide, dec_fits_at_cap _ _ _⟩,
    ⟨rfl, dec_fits_at_cap _ _ _⟩, by decide⟩

theorem wit_WireBytesFollowTable :
    WellFormed (.wireOther 0x33) ∧ (inDec (capped 2) 3 [0x09]).decState = 3 ∧ (0x33#8 : Byte) ≠ 0xFE#8 ∧
      DecFits (inDec (capped 2) 3 [0x09]) ((inDec (capped 2) 3 [0x09]).decBuf ++ [0x33]) :=
  ⟨by decide, rfl, by decide, dec_fits_at_cap _ _ _⟩

theorem wit_UnassignedDecStateFaults :
    (Delivers .wireEnd 0x0D ∧ (inDec s0 6 []).decState = 6) ∧ (Delivers (.decAdd 0x00) 0x00 ∧ (inDec s0 7 []).decState = 7) ∧
      (Delivers (.wireOther 0x33) 0x33 ∧ (inDec s0 7 [0x09]).decState = 7) :=
  ⟨⟨.inr (.inr (.inl ⟨rfl, rfl⟩)), rfl⟩, ⟨.inl rfl, rfl⟩, ⟨.inr (.inr (.inr (.inr ⟨rfl, by decide, by decide, by decide⟩))), rfl⟩⟩

theorem wit_TwoStartBytesResynchronise : Ready mid ∧ DecoderSound mid := ⟨mid_ready, mid_decoder_sound⟩

theorem wit_FrameRecovery :
    Ready mid ∧ DecoderSound mid ∧ ([0xF0#8, 0xFE#8] : List Byte) ≠ [] ∧
      ([0xF0#8, 0xFE#8] : List Byte).head? ≠ some 0xFE#8 :=
  ⟨mid_ready, mid_decoder_sound, by decide, by decide⟩

theorem wit_FirstByteFEComesBackAsF0 : Ready mid ∧ DecoderSound mid := ⟨mid_ready, mid_decoder_sound⟩

theorem wit_JunkBeforeAFrameIsTolerated :
    Ready mid ∧ DecoderSound mid ∧ ([0x09#8] : List Byte) ≠ [] ∧ ([0x09#8] : List Byte).head? ≠ some 0xFE#8 :=
  ⟨mid_ready, mid_decoder_sound, by decide, by decide⟩

theorem wit_DecAddsChunksAndResponses :
    Ready s0 ∧ DecoderSound s0 ∧ ∃ t, perform (decAdds [0xFE, 0xFE, 0x09]) s0 = .next t :=
  ⟨s0_ready, s0_decoder_sound, _, rfl⟩

/-- One byte past each capacity, a faulted instance, and its reset. -/
theorem wit_OverflowFaultsUntilReset :
    ¬ EncFits (capped 2) (encOutAfter (capped 2).encOut 0x09) ∧
      ¬ EncFits (capped 3) (closedFrame (capped 3).encOut (capped 3).encCk) ∧
      DecOverflows (inDec (capped 1) 3 [0x09]) 0x0D ∧
      (sent (encode .ckRead) { capped 1 with faulted := true }).faulted = true ∧
      (∃ t, step { capped 1 with faulted := true, pending := [.reset] } = .next t) ∧
      (s0.params.decBufCap = none ∧ s0.params.encOutCap = none ∧ ∃ t, exec .encFrame s0 = .next t) := by
  refine ⟨fun h => ?_, fun h => ?_, .inl ⟨by decide, by decide, fun h => ?_⟩, rfl, ⟨_, rfl⟩, rfl, rfl, ⟨_, rfl⟩⟩
  · exact absurd (h 2 rfl) (by decide)
  · exact absurd (h 3 rfl) (by decide)
  · exact absurd (h 1 rfl) (by decide)

theorem wit_OverflowChangesNothingElse :
    Delivers .wireEscapedStart 0xF0 ∧ DecOverflows (inDec (capped 1) 4 [0x09]) 0xF0 ∧
      Delivers (.decAdd 0x33) 0x33 ∧ DecOverflows (inDec (capped 0) 2 []) 0x33 := by
  refine ⟨.inr (.inr (.inr (.inl ⟨rfl, rfl⟩))), .inr ⟨by decide, rfl, fun h => ?_⟩, .inl rfl,
    .inl ⟨by decide, by decide, fun h => ?_⟩⟩
  · exact absurd (h 1 rfl) (by decide)
  · exact absurd (h 0 rfl) (by decide)

theorem wit_MsgEncNodataFramesCommand :
    (Catalog.entry s0.params.catalog 0x0A).noData = true ∧ (Catalog.entry s0.params.catalog 0x80).noData = false := by decide

theorem wit_MsgEncSelFramesSelector :
    (Catalog.entry s0.params.catalog 0x17).noDataSel = true ∧ (Catalog.entry s0.params.catalog 0x0A).noDataSel = false := by
  decide

theorem wit_MsgEncAuthChecksThenFrames :
    (Catalog.entry s0.params.catalog 0x0A).flagsAuth = none ∧
      (Catalog.entry s0.params.catalog 0x86).flagsAuth = some { first := 128, more := [256] } ∧
      (code16.drop 1).length ≠ 16 ∧ code16.length = 16 ∧ (∀ c ∈ code16, AllowedChar c) ∧
      (∃ c ∈ code16.set 15 0x3A, ¬ AllowedChar c) ∧ (code16.set 15 0x3A).length = 16 ∧
      ¬ ((flag0 129).length = 128 ∨ (flag0 129).length ∈ [256]) ∧ (flag0 128).length = 128 ∧ (flag0 256).length ∈ [256] := by
  unfold AllowedChar; decide +kernel

theorem wit_PackcodeNibbles :
    code16.length = 16 ∧ (∀ c ∈ code16, AllowedChar c) ∧ code16[2 * 0]? = some 0x31 ∧ code16[2 * 0 + 1]? = some 0x32 ∧
      code16[2 * 7]? = some 0x46 ∧ code16[2 * 7 + 1]? = some 0x46 := by
  unfold AllowedChar; decide +kernel

theorem wit_FlagsAreLeastSignificantFirst :
    (packflags [true])[0]? = some 0x01 ∧ (packflags (List.replicate 8 false ++ [false, true]))[1]? = some 0x02 ∧
      ([0x09#8, 0x80#8] : List Byte)[1]? = some 0x80#8 := by decide +kernel

theorem wit_UnpackInvertsPack : (flag0 8).length % 8 = 0 ∧ ([] : List Bool).length % 8 = 0 := by decide

/-- Two bytes are too few; three are enough, whether or not the checksum is right and the code in the catalog. -/
theorem wit_DecodePayloadSteps :
    ([0x4F#8, 0xA9] : List Byte).length < 3 ∧ ([0x09#8, 0xD7, 0xEB] : List Byte) = 0x09 :: [] ++ [0xD7, 0xEB] ∧
      ((0xD7#8 : Byte) = (ckfold 0x147A#16 [0x09]).extractLsb' 8 8 ∧ (0xEB#8 : Byte) = (ckfold 0x147A#16 [0x09]).extractLsb' 0 8) ∧
      ¬ ((0xD7#8 : Byte) = (ckfold 0x147A#16 [0x09]).extractLsb' 8 8 ∧ (0xEA#8 : Byte) = (ckfold 0x147A#16 [0x09]).extractLsb' 0 8) ∧
      (Catalog.entry catT 0x09).ans = none ∧ (Catalog.entry catT 0xEF).ans = some .result := by decide

theorem wit_DecodeVariantLengths :
    (List.replicate 16 (0#8 : Byte)).length = 16 ∧ (List.replicate 32 (0#8 : Byte)).length ∈ [32] ∧
      ¬ ((List.replicate 17 (0#8 : Byte)).length = 16 ∨ (List.replicate 17 (0#8 : Byte)).length ∈ [32]) ∧
      (List.replicate 5 (0#8 : Byte)).length ∈ [5, 6, 7] ∧ (List.replicate 7 (0#8 : Byte)).length ∈ [5, 6, 7] ∧
      (List.replicate 4 (0#8 : Byte)).length ∉ [5, 6, 7] ∧ (List.replicate 8 (0#8 : Byte)).length ∉ [5, 6, 7] ∧
      ([] : List Byte).length ≠ 1 ∧ (List.replicate 2 (0#8 : Byte)).length ≠ 1 := by decide +kernel

theorem wit_MsgDecodeAnswersFirstFrame :
    firstFrame { st := .s0, buf := [] } [0xFE, 0xFE, 0x09, 0xFE] = none ∧
      firstFrame { st := .s0, buf := [] } [0xFE, 0xFE, 0x09, 0xFE, 0x0D] = some [0x09] ∧
      (decstep { st := .s4, buf := [0x09] } 0x0D).2 = true ∧ (decstep { st := .s4, buf := [0x09] } 0x0E).2 = false := by decide

theorem wit_MsgDispatchDecodesCompletedFrame :
    (inDec s0 5 [0x09]).decState = 5 ∧ (inDec s0 4 [0x09]).decState.toNat < 5 := by decide

theorem wit_MessageRoundTrip :
    (0xEF#8 : Byte) ≠ 0xFE#8 ∧ (Catalog.entry s0.params.catalog 0xEF).ans = some .result := by decide

theorem wit_StreamingAgreesWithOneShot :
    Ready s0 ∧ s0.decState = 0 ∧ s0.decBuf = [] ∧ ([0xFE#8, 0xFE, 0x09, 0xFE, 0x0D] : List Byte) ≠ [] ∧
      ∃ t, perform (decAdds [0xFE, 0xFE, 0x09, 0xFE, 0x0D]) s0 = .next t ∧
        t.responses = s0.responses ++ List.replicate (5 - 1) (doneResponse false) ++ [doneResponse true] :=
  ⟨s0_ready, rfl, rfl, by decide, _, rfl, by decide⟩

theorem wit_CodeFENeverReceived :
    (∃ t, exec (.msgDecode [0xFE, 0xFE, 0xEF, 0xFF, 0x4F, 0xA9, 0xFE, 0x0D]) s0 = .next t ∧
      t.responses = s0.responses ++ [{ status := .ok, value := some (.answer (some (.result 0xEF 0xFF))) }]) ∧
    (Sound (inDec s0 5 [0xEF, 0xFF, 0x4F, 0xA9]) ∧ ∃ t, exec .msgDispatch (inDec s0 5 [0xEF, 0xFF, 0x4F, 0xA9]) = .next t ∧
      t.responses = s0.responses ++ [{ status := .ok, value := some (.answer (some (.result 0xEF 0xFF))) }]) :=
  ⟨⟨_, rfl, by decide⟩,
    ⟨.inl ⟨rfl, rfl⟩, by unfold DecoderSound; decide,
      ⟨(by intro n h; cases h), (by intro n h; cases h), by decide⟩⟩,
    _, rfl, by decide⟩

theorem wit_UndetectedSingleBitFlip : (Catalog.entry s0.params.catalog 0x7F#8).ans = some .changeNotify := by decide

theorem wit_ErrorsChangeNothing :
    Status.illegalOp ≠ .ok ∧ ∃ t, step (sent (.request { word := 0xFFF#12 }) s0) = .next t ∧
      t.responses = (sent (.request { word := 0xFFF#12 }) s0).responses ++ [{ status := .illegalOp, value := none }] :=
  ⟨by decide, _, rfl, rfl⟩

theorem wit_OnlyTheNamedOperationsWrite :
    (∃ t, exec .ckRead s0 = .next t) ∧ Instr.ckRead ≠ .ckInit ∧ (∀ b, Instr.ckRead ≠ .ckAdd b) :=
  ⟨⟨_, rfl⟩, by decide, by intro b; simp⟩

theorem wit_ConfigurationNeverChanges : ∃ t, step { s0 with pending := [.reset] } = .next t := ⟨_, rfl⟩

/-- The full buffers, a reset, and a byte that empties the decoder. -/
theorem wit_EveryStepKeepsSound :
    Sound s0 ∧ Sound full ∧ (∃ t, step s0 = .next t) ∧ (∃ t, step full = .next t) :=
  ⟨s0_sound, full_sound, ⟨_, rfl⟩, ⟨_, rfl⟩⟩

theorem wit_ResetValues : { full with faulted := true, pending := [.reset] }.pending = .reset :: [] := rfl

theorem wit_IdleBlockStaysAsItIs : mid.pending = [] ∧ mid.faulted = false := ⟨rfl, rfl⟩

theorem wit_OtherOperationsAreIdempotent :
    (∃ t, exec .decReset mid = .next t) ∧ (∀ b, Instr.decReset ≠ .ckAdd b) ∧ (∀ b, Instr.decReset ≠ .encAdd b) ∧
      Instr.decReset ≠ .encFrame ∧ (∀ b, ¬ Delivers .decReset b) ∧ (∀ b, Instr.decReset ≠ .wireOther b) :=
  ⟨⟨_, rfl⟩, by simp, by simp, by simp, by simp [Delivers], by simp⟩

theorem wit_EveryRequestGetsItsResponse : Ready s0 ∧ Sound s0 := ⟨s0_ready, s0_sound⟩

theorem wit_PrivateCodecIsIndependent : s0.params.catalog = full.params.catalog ∧ s0.decState ≠ full.decState := by decide

/-- Two instances under one pair of tables, the second bounded and at its bounds. -/
def pair : Instances := { tables := s0.params.toTables, members := [.next s0.member, .next full.member] }

/-- A configuration of two instances. -/
def pairSetup : SystemSetup :=
  { rows := [{ code := 0xEF, enc := [], ans := some .result }], named := [], resultTexts := texts,
    members := [{}, { decBufCap := some 4 }] }

/-- Both places read CAT_T (R251). -/
theorem test_instances_share_tables :
    (s0.member.under pair.tables).params.catalog = catT ∧ (full.member.under pair.tables).params.catalog = catT ∧
      (full.member.under pair.tables).params.decBufCap = some 4 := by decide

/-- A running place, one with an overflow behind it that stops, and a system as it is configured. -/
theorem wit_InstancesAreIndependent :
    pair.members[1]? = some (.next full.member) ∧ (0 : Nat) ≠ 1 ∧
      (∃ t, step (full.member.under pair.tables) = .next t) ∧
      step ({ full with faulted := true }.member.under pair.tables) = .fault .faultOverflow ∧
      (∃ sys, bootSystem pairSetup = .ok sys) ∧ pairSetup.members[1]? = some { decBufCap := some 4 } :=
  ⟨rfl, by decide, ⟨_, rfl⟩, rfl, ⟨_, rfl⟩, rfl⟩

/-- A setup with one well-formed row of each kind of operand. -/
def goodSetup : Setup :=
  { rows := [{ code := 0x00, enc := [.noData, .noDataSel], ans := some (.flagArray [16, 32]) },
      { code := 0x7F, enc := [.noData], ans := some .changeNotify },
      { code := 0x80, enc := [.flagsAuth [32]], ans := none }, { code := 0xEF, enc := [], ans := some .result }],
    named := [0x17], resultTexts := texts }

theorem wit_BootRefusesWhatTheSpecRefuses :
    1 < { goodSetup with requesters := 2 }.requesters ∧ goodSetup.requesters ≤ 1 ∧
      CatalogMalformed [{ code := 0x80, enc := [.flagsAuth [32], .flagsAuth [128]], ans := none }] ∧
      CatalogMalformed [{ code := 0x80, enc := [.flagsAuth []], ans := none }] ∧
      CatalogMalformed [{ code := 0x00, enc := [], ans := some (.flagArray []) }] ∧
      CatalogMalformed [{ code := 0x00, enc := [], ans := none }, { code := 0x00, enc := [], ans := some .result }] ∧
      ¬ CatalogMalformed goodSetup.rows := by
  simp [CatalogMalformed, RowMalformed, goodSetup, RawShape.isAuth, List.filter_cons]

end Sys2Proof.Tests
end

section
/-! The reset values (R33) and the reset event (R270). -/

namespace Sys2Proof.Machine

open Sys2Proof

/-- The reset values of R33, whatever the configuration. -/
theorem State.fresh_values (p : Params) :
    (State.fresh p).ck = 0x147A#16 ∧ (State.fresh p).encCk = 0x147A#16 ∧ (State.fresh p).encOut = [] ∧
      (State.fresh p).decState = 0 ∧ (State.fresh p).decBuf = [] ∧ (State.fresh p).faulted = false :=
  ⟨rfl, rfl, rfl, rfl, rfl, rfl⟩

/-- A reset leaves the tuple of R20 at the reset values of R33. -/
theorem State.resetBlock_tuple (s : State) :
    s.resetBlock.tuple = { ck := 0x147A#16, encCk := 0x147A#16, encOut := [], decState := 0, decBuf := [] } := by
  simp [State.tuple, seed]

/-- A reset event resets the block, a faulted one too (R253, R270). -/
theorem step_of_reset_pending {s : State} {rest : List Event} (h : s.pending = .reset :: rest) :
    step s = .next (s.consume rest).resetBlock := by
  simp only [step, h]

/-- Settles O54: the reset values hold for every configuration, and the step at a reset event is `resetBlock`, whose
fields the laws of the state give. -/
theorem resetValues : Obligations.ResetValues := by
  unfold Obligations.ResetValues
  refine ⟨State.fresh_values Config.params, fun s rest hreset => ?_⟩
  exact ⟨(s.consume rest).resetBlock, step_of_reset_pending hreset, State.resetBlock_tuple _, by simp, by simp, by simp⟩

end Sys2Proof.Machine
end

section
/-! The nibbles of the prefix-and-user-code (R57, R77) and the bits of the flag arrays (R56, R78, R79). -/

namespace Sys2Proof.Machine

open Sys2Proof

/-! ### The prefix-and-user-code -/

/-- `nib` of a digit is its distance from `0`, of `f` and `F` it is 15 (R77). -/
theorem nib_toNat_of_allowedChar {c : Byte} (h : AllowedChar c) : (nib c).toNat = nibbleOf c := by
  unfold AllowedChar at h
  unfold nib nibbleOf
  by_cases hdigit : c.toNat ≤ 0x39
  · have hrange : 0x30#8 ≤ c ∧ c ≤ 0x39#8 := by rw [BitVec.le_def, BitVec.le_def]; simp only [BitVec.toNat_ofNat]; omega
    rw [if_pos (by simp [hrange]), if_pos hdigit, BitVec.extractLsb'_toNat, Nat.shiftRight_zero]
    bv_omega
  · have hrange : ¬ c ≤ 0x39#8 := by simpa [BitVec.le_def] using hdigit
    rw [if_neg (by simp [hrange]), if_neg hdigit]
    rfl

/-- Two nibbles side by side are a byte: the first is worth 16 (R57). -/
theorem nibbles_append_eq_ofNat (hi lo : BitVec 4) : hi ++ lo = BitVec.ofNat 8 (hi.toNat * 16 + lo.toNat) := by
  have hlo : lo.toNat < 2 ^ 4 := lo.isLt
  apply BitVec.eq_of_toNat_eq
  rw [BitVec.toNat_append, ← Nat.shiftLeft_add_eq_or_of_lt hlo, Nat.shiftLeft_eq, BitVec.toNat_ofNat]
  omega

theorem packcode_getElem? (s : List Byte) {k : Nat} (h : k < codeBytes) :
    (packcode s)[k]? = some (packCodeByte s k) := by
  simp [packcode, h]

/-- The byte packed from two allowed characters (R57, R77). -/
theorem packCodeByte_of_allowedChar {s : List Byte} {k : Nat} {hi lo : Byte} (hhi : s[2 * k]? = some hi)
    (hlo : s[2 * k + 1]? = some lo) (ahi : AllowedChar hi) (alo : AllowedChar lo) :
    packCodeByte s k = BitVec.ofNat 8 (nibbleOf hi * 16 + nibbleOf lo) := by
  unfold packCodeByte
  rw [List.getD_eq_getElem?_getD, List.getD_eq_getElem?_getD, hhi, hlo, Option.getD_some, Option.getD_some,
    nibbles_append_eq_ofNat, nib_toNat_of_allowedChar ahi, nib_toNat_of_allowedChar alo]

/-- Settles O35: byte `k` of the code is made of characters `2k` and `2k+1`, both allowed, so `nib` gives the nibbles
of R77. -/
theorem packcodeNibbles : Obligations.PackcodeNibbles := by
  unfold Obligations.PackcodeNibbles
  intro s _ hallowed
  refine ⟨packcode_length s, fun k hk hi lo hhi hlo => ?_⟩
  rw [packcode_getElem? s hk, packCodeByte_of_allowedChar hhi hlo (hallowed hi (List.mem_of_getElem? hhi))
    (hallowed lo (List.mem_of_getElem? hlo))]

/-! ### Flag arrays -/

theorem getLsbD_one_shiftLeft {i j : Nat} (hj : j < 8) : (1#8 <<< i).getLsbD j = decide (j = i) := by
  rw [← BitVec.twoPow_eq, BitVec.getLsbD_twoPow, ← Bool.decide_and, decide_eq_decide]
  omega

/-- One round of `byteOfBits` sets bit `i` when `f i`, and no other. -/
theorem getLsbD_setBit (f : Nat → Bool) (acc : Byte) (i : Nat) {j : Nat} (hj : j < 8) :
    (if f i then acc ||| (1#8 <<< i) else acc).getLsbD j = (acc.getLsbD j || (decide (j = i) && f i)) := by
  split
  next hf => rw [BitVec.getLsbD_or, getLsbD_one_shiftLeft hj, hf, Bool.and_true]
  next hf => simp [hf]

/-- The bits that the first `n` rounds of `byteOfBits` have set. -/
theorem getLsbD_foldl_setBit (f : Nat → Bool) {j : Nat} (hj : j < 8) (n : Nat) :
    ((List.range n).foldl (fun acc i => if f i then acc ||| (1#8 <<< i) else acc) 0#8).getLsbD j =
      (decide (j < n) && f j) := by
  induction n with
  | zero => simp
  | succ n ih =>
    rw [List.range_succ, List.foldl_append, List.foldl_cons, List.foldl_nil, getLsbD_setBit f _ n hj, ih]
    by_cases hjn : j = n
    · simp [hjn]
    · have hlt : j < n + 1 ↔ j < n := by omega
      simp [hjn, hlt]

theorem byteOfBits_getLsbD (f : Nat → Bool) {j : Nat} (hj : j < 8) : (byteOfBits f).getLsbD j = f j :=
  (getLsbD_foldl_setBit f hj 8).trans (by rw [decide_eq_true hj, Bool.true_and])

theorem packflags_getElem?_eq_some {f : List Bool} {k : Nat} {b : Byte} (h : (packflags f)[k]? = some b) :
    b = byteOfBits fun j => f.getD (8 * k + j) false := by
  unfold packflags at h
  rw [List.getElem?_map, Option.map_eq_some_iff] at h
  obtain ⟨k', hk, rfl⟩ := h
  obtain ⟨_, rfl⟩ := List.getElem?_eq_some_iff.1 hk
  rw [List.getElem_range]

theorem byteFlags_getElem? (b : Byte) {j : Nat} (hj : j < 8) : (byteFlags b)[j]? = some (b.getLsbD j) := by
  simp [byteFlags, hj]

/-- Each byte before byte `i` is eight flags, so its own start at flag `8i` (R79). -/
theorem unpackflags_getElem? {d : List Byte} {i j : Nat} (hj : j < 8) {b : Byte} (hb : d[i]? = some b) :
    (unpackflags d)[8 * i + j]? = some (b.getLsbD j) := by
  induction d generalizing i with
  | nil => simp at hb
  | cons c d ih =>
    rw [unpackflags_cons]
    cases i with
    | zero =>
      obtain rfl : c = b := by simpa using hb
      rw [Nat.mul_zero, Nat.zero_add, List.getElem?_append_left (by simpa using hj), byteFlags_getElem? c hj]
    | succ i =>
      have hindex : 8 * (i + 1) + j - (byteFlags c).length = 8 * i + j := by rw [byteFlags_length]; omega
      rw [List.getElem?_append_right (by rw [byteFlags_length]; omega), hindex]
      exact ih (by simpa using hb)

/-- Settles O36: a packed byte is `byteOfBits` of its eight flags, and an unpacked byte is its eight bits in place. -/
theorem flagsAreLeastSignificantFirst : Obligations.FlagsAreLeastSignificantFirst := by
  unfold Obligations.FlagsAreLeastSignificantFirst
  refine ⟨fun f => ⟨packflags_length f, fun k j hj b hb => ?_⟩,
    fun d => ⟨unpackflags_length d, fun i j hj b hb => unpackflags_getElem? hj hb⟩⟩
  rw [packflags_getElem?_eq_some hb, byteOfBits_getLsbD _ hj, List.getD_eq_getElem?_getD]

end Sys2Proof.Machine
end

section
/-! What the port answers to an illegal request (R82) and to an over-long operand (R83), and the escape function (R71). -/

namespace Sys2Proof.Machine

open Sys2Proof

/-! ### Illegal requests -/

/-- The row's answer `x` to the request `r` is R82's: an instruction, and a well-formed one, exactly when `r` is not
illegal. -/
structure FollowsR82 (r : Request) (x : Except Reject Instr) : Prop where
  ok_iff : (∃ i, x = .ok i) ↔ ¬ PortIllegal r
  wellFormed : ∀ i, x = .ok i → WellFormed i

theorem dataField_eq_zero_iff {w : BitVec 12} : dataField w = 0 ↔ w.toNat % 256 = 0 := by
  rw [← dataField_toNat, ← BitVec.toNat_inj]; rfl

/-- R82 for an operation whose `DATA` is reserved and that takes no sequence operand. -/
theorem not_portIllegal_iff_of_plainOp {r : Request} (hop : r.word.toNat / 256 ∈ [0x0, 0x2, 0x4, 0x6, 0x7, 0xC]) :
    ¬ PortIllegal r ↔ dataField r.word = 0 ∧ r.raw = none ∧ r.code = none ∧ r.flags = none := by
  have hreserved : r.word.toNat / 256 ∈ [0x0, 0x2, 0x4, 0x6, 0x7, 0xB, 0xC] := by
    simp only [List.mem_cons] at hop ⊢; tauto
  have hrow : ¬ 13 ≤ r.word.toNat / 256 ∧ r.word.toNat / 256 ≠ 0xB ∧ r.word.toNat / 256 ≠ 0xA := by
    simp only [List.mem_cons, List.not_mem_nil, or_false] at hop; omega
  rw [dataField_eq_zero_iff]
  simp only [PortIllegal, hreserved, hrow]
  tauto

/-- R82 for an operation with a byte operand and no sequence operand. -/
theorem not_portIllegal_iff_of_byteOp {r : Request} (hop : r.word.toNat / 256 ∈ [0x1, 0x3, 0x5, 0x8, 0x9]) :
    ¬ PortIllegal r ↔ r.raw = none ∧ r.code = none ∧ r.flags = none := by
  have hrow : r.word.toNat / 256 ∉ [0x0, 0x2, 0x4, 0x6, 0x7, 0xB, 0xC] ∧ ¬ 13 ≤ r.word.toNat / 256 ∧
      r.word.toNat / 256 ≠ 0xB ∧ r.word.toNat / 256 ≠ 0xA := by
    simp only [List.mem_cons, List.not_mem_nil, or_false] at hop ⊢; omega
  simp only [PortIllegal, hrow]
  tauto

theorem plainRow_followsR82 {r : Request} {i : Instr} (hop : r.word.toNat / 256 ∈ [0x0, 0x2, 0x4, 0x6, 0x7, 0xC])
    (hi : WellFormed i) : FollowsR82 r (plainRow r i) where
  ok_iff := by simp [plainRow_eq_ok, not_portIllegal_iff_of_plainOp hop]
  wellFormed j hj := by
    obtain ⟨-, -, rfl⟩ := plainRow_eq_ok.1 hj
    exact hi

theorem byteRow_followsR82 {r : Request} {mk : Byte → Instr} (hop : r.word.toNat / 256 ∈ [0x1, 0x3, 0x5, 0x8, 0x9])
    (hmk : ∀ b, WellFormed (mk b)) : FollowsR82 r (byteRow r mk) where
  ok_iff := by simp [byteRow_eq_ok, not_portIllegal_iff_of_byteOp hop]
  wellFormed j hj := by
    obtain ⟨-, rfl⟩ := byteRow_eq_ok.1 hj
    exact hmk _

/-- MSG_ENC_AUTH takes `CODE` and `FLAGS`, no `RAW`, and every `DATA`. -/
theorem authRow_followsR82 {r : Request} (hop : r.word.toNat / 256 = 0xA) : FollowsR82 r (authRow r) where
  ok_iff := by
    have hoperands : ¬ PortIllegal r ↔ r.raw = none ∧ r.code ≠ none ∧ r.flags ≠ none := by simp [PortIllegal, hop]
    rw [hoperands, Option.ne_none_iff_exists', Option.ne_none_iff_exists']
    simp [authRow_eq_ok]
  wellFormed j hj := by
    obtain ⟨code, flags, -, -, -, rfl⟩ := authRow_eq_ok.1 hj
    rfl

/-- MSG_DECODE takes `RAW`, neither `CODE` nor `FLAGS`, and its `DATA` is reserved. -/
theorem rawRow_followsR82 {r : Request} (hop : r.word.toNat / 256 = 0xB) : FollowsR82 r (rawRow r) where
  ok_iff := by
    have hoperands : ¬ PortIllegal r ↔ dataField r.word = 0 ∧ r.raw ≠ none ∧ r.code = none ∧ r.flags = none := by
      rw [dataField_eq_zero_iff]; simp [PortIllegal, hop]
    rw [hoperands, Option.ne_none_iff_exists']
    simp [rawRow_eq_ok]
  wellFormed j hj := by
    obtain ⟨-, raw, -, -, -, rfl⟩ := rawRow_eq_ok.1 hj
    rfl

/-- The opcode map refuses exactly R82's list: one case per row of R81, the last being the reserved `OP`s. -/
theorem decodeRequest_followsR82 (r : Request) : FollowsR82 r (decodeRequest r) := by
  unfold decodeRequest
  rw [opField_toNat]
  split
  case h_1 hop => exact plainRow_followsR82 (by simp [hop]) rfl
  case h_2 hop => exact byteRow_followsR82 (by simp [hop]) fun _ => rfl
  case h_3 hop => exact plainRow_followsR82 (by simp [hop]) rfl
  case h_4 hop => exact byteRow_followsR82 (by simp [hop]) fun _ => rfl
  case h_5 hop => exact plainRow_followsR82 (by simp [hop]) rfl
  case h_6 hop => exact byteRow_followsR82 (by simp [hop]) fun _ => rfl
  case h_7 hop => exact plainRow_followsR82 (by simp [hop]) rfl
  case h_8 hop => exact plainRow_followsR82 (by simp [hop]) rfl
  case h_9 hop => exact byteRow_followsR82 (by simp [hop]) fun _ => rfl
  case h_10 hop => exact byteRow_followsR82 (by simp [hop]) fun _ => rfl
  case h_11 hop => exact authRow_followsR82 hop
  case h_12 hop => exact rawRow_followsR82 hop
  case h_13 hop => exact plainRow_followsR82 (by simp [hop]) rfl
  case h_14 =>
    have hreserved : PortIllegal r := .inl (by simp only [imp_false] at *; omega)
    exact ⟨by simp [hreserved], by simp⟩

theorem decodeRequest_error_of_portIllegal {r : Request} (h : PortIllegal r) : ∃ e, decodeRequest r = .error e := by
  cases hdecode : decodeRequest r with
  | error e => exact ⟨e, rfl⟩
  | ok i => exact absurd h ((decodeRequest_followsR82 r).ok_iff.1 ⟨i, hdecode⟩)

theorem decodeRequest_ok_of_not_portIllegal {r : Request} (h : ¬ PortIllegal r) :
    ∃ i, decodeRequest r = .ok i ∧ WellFormed i := by
  obtain ⟨i, hdecode⟩ := (decodeRequest_followsR82 r).ok_iff.2 h
  exact ⟨i, hdecode, (decodeRequest_followsR82 r).wellFormed i hdecode⟩

/-- An illegal request is refused under every `SEQ_CAP`. -/
theorem accept_error_of_portIllegal {r : Request} (h : PortIllegal r) (cap : Option Nat) :
    ∃ e, accept cap (.request r) = .error e := by
  simp only [accept]
  split
  · exact ⟨_, rfl⟩
  · exact decodeRequest_error_of_portIllegal h

/-- A packet that the port refuses is taken off it and answered `E_ILLEGAL_OP`, and nothing else changes. -/
theorem step_of_accept_error {s : State} {p : Packet} {rest : List Event} {e : Reject}
    (hpending : s.pending = .packet p :: rest) (hlive : s.faulted = false)
    (herror : accept s.params.seqCap p = .error e) : step s = fails .illegalOp { s with pending := rest } := by
  have hraise : step s = raiseError .illegalOp (s.consume rest) := by simp [step, hpending, hlive, herror]
  exact hraise

/-- Settles O5: the decoder refuses exactly R82's list (`decodeRequest_followsR82`), and what the port refuses the block
answers `E_ILLEGAL_OP` (`step_of_accept_error`). -/
theorem illegalRequestAnsweredIllegalOp : Obligations.IllegalRequestAnsweredIllegalOp := by
  unfold Obligations.IllegalRequestAnsweredIllegalOp
  refine ⟨fun r hillegal s rest hpending hlive => ?_, fun r hlegal => decodeRequest_ok_of_not_portIllegal hlegal⟩
  obtain ⟨e, herror⟩ := accept_error_of_portIllegal hillegal s.params.seqCap
  exact step_of_accept_error hpending hlive herror

/-! ### Over-long operands -/

theorem exceeds_getD_length {α : Type} (n : Nat) (o : Option (List α)) :
    exceeds (some n) ((o.map List.length).getD 0) = true ↔ ∃ l, o = some l ∧ n < l.length := by
  cases o <;> simp [exceeds_eq_true]

theorem tooLong_iff_exists (n : Nat) (r : Request) :
    r.tooLong (some n) = true ↔
      (∃ l, r.raw = some l ∧ n < l.length) ∨ (∃ l, r.code = some l ∧ n < l.length) ∨
        (∃ f, r.flags = some f ∧ n < f.length) := by
  simp only [Request.tooLong, Bool.or_eq_true, exceeds_getD_length, or_assoc]

theorem accept_of_tooLong {cap : Option Nat} {r : Request} (h : r.tooLong cap = true) :
    accept cap (.request r) = .error .operandTooLong := by
  simp [accept, h]

/-- Settles O6: an operand over the bound makes the request `tooLong`, which the port refuses before it decodes. -/
theorem overlongOperandRefused : Obligations.OverlongOperandRefused := by
  unfold Obligations.OverlongOperandRefused
  intro n r s rest hcap hlong hpending hlive
  have htooLong : r.tooLong s.params.seqCap = true := by rw [hcap, tooLong_iff_exists]; exact hlong
  exact step_of_accept_error hpending hlive (accept_of_tooLong htooLong)

/-! ### The escape function -/

theorem esc_of_eq_startByte {b : Byte} (h : b = startByte) : esc b = [startByte, escapedStart] := if_pos h

theorem esc_of_ne_startByte {b : Byte} (h : b ≠ startByte) : esc b = [b] := if_neg h

/-- The frame of R70 with `START`, `END` and the checksum bytes written out. -/
theorem wireFrame_eq_frameOnWire (p : List Byte) : wireFrame p = frameOnWire p := by
  simp only [wireFrame, frameOnWire, checksumBytes, List.append_assoc]
  rfl

/-- Settles O16: the two branches of `esc`, and that the payload and the two checksum bytes are all it is applied to. -/
theorem escapeRule : Obligations.EscapeRule := by
  unfold Obligations.EscapeRule
  exact ⟨fun _ => esc_of_eq_startByte, fun _ => esc_of_ne_startByte, wireFrame_eq_frameOnWire⟩

end Sys2Proof.Machine
end

section
/-! The Checksum unit: `ckstep` on numbers (R100), and CK_INIT, CK_ADD and CK_READ with their words (R103 to R105). -/

namespace Sys2Proof.Machine

open Sys2Proof

/-! ### The step on numbers -/

/-- Settles O10: the model's shifts are the doubling and the division of the statement, and `w3` is reduced modulo 2^16,
so the 16-bit word holds it unchanged. -/
theorem ckstepInThreeSteps : Obligations.CkstepInThreeSteps := by
  unfold Obligations.CkstepInThreeSteps
  intro v b
  unfold ckstep
  rw [BitVec.toNat_ofNat, Nat.mod_mod]
  simp only [Nat.shiftLeft_eq, Nat.shiftRight_eq_div_pow, Nat.reducePow]

/-- The complemented rotation of `0xFFFF` is 0, so only the byte remains (R104). -/
theorem ckstep_allOnes (b : Byte) : ckstep 0xFFFF#16 b = b.setWidth 16 := by
  apply BitVec.eq_of_toNat_eq
  rw [ckstepInThreeSteps, BitVec.toNat_setWidth]
  simp

/-! ### Requests without sequence operands -/

theorem plainRow_mkWord_zero (op : BitVec 4) (i : Instr) : plainRow { word := mkWord op 0#8 } i = .ok i :=
  plainRow_eq_ok.2 ⟨dataField_mkWord op 0, ⟨rfl, rfl, rfl⟩, rfl⟩

theorem byteRow_mkWord (op : BitVec 4) (b : Byte) (mk : Byte → Instr) :
    byteRow { word := mkWord op b } mk = .ok (mk b) :=
  byteRow_eq_ok.2 ⟨⟨rfl, rfl, rfl⟩, congrArg mk (dataField_mkWord op b).symm⟩

theorem portIllegal_of_reservedData {op : BitVec 4} (hop : op.toNat ∈ [0x0, 0x2, 0x4, 0x6, 0x7, 0xB, 0xC]) {d : Byte}
    (hd : d ≠ 0) : PortIllegal { word := mkWord op d } := by
  refine .inr (.inl ⟨?_, ?_⟩)
  · rwa [Laws.OpcodeBits.mkWord_div]
  · rwa [ne_eq, ← dataField_eq_zero_iff, dataField_mkWord]

theorem answeredIllegal_of_reservedData {op : BitVec 4} (hop : op.toNat ∈ [0x0, 0x2, 0x4, 0x6, 0x7, 0xB, 0xC])
    {d : Byte} (hd : d ≠ 0) : AnsweredIllegal { word := mkWord op d } :=
  illegalRequestAnsweredIllegalOp.1 _ (portIllegal_of_reservedData hop hd)

/-! ### The three operations -/

theorem exec_ckInit (s : State) : exec .ckInit s = returns none { s with ck := 0x147A#16 } := rfl

theorem exec_ckAdd (b : Byte) (s : State) : exec (.ckAdd b) s = returns none { s with ck := ckstep s.ck b } := rfl

theorem exec_ckRead (s : State) : exec .ckRead s = returns (some (.word s.ck)) s := rfl

theorem decodeRequest_ckInit : decodeRequest { word := mkWord 0x0 0 } = .ok .ckInit := by
  simp [decodeRequest, plainRow_mkWord_zero]

theorem decodeRequest_ckAdd (b : Byte) : decodeRequest { word := mkWord 0x1 b } = .ok (.ckAdd b) := by
  simp [decodeRequest, byteRow_mkWord]

theorem decodeRequest_ckRead : decodeRequest { word := mkWord 0x2 0 } = .ok .ckRead := by
  simp [decodeRequest, plainRow_mkWord_zero]

/-- Settles O7: the meaning and the word of CK_INIT, and R82 for its reserved `DATA`. -/
theorem ckInitSetsSeed : Obligations.CkInitSetsSeed := by
  unfold Obligations.CkInitSetsSeed
  exact ⟨exec_ckInit, decodeRequest_ckInit, fun _ => answeredIllegal_of_reservedData (op := 0x0) (by decide)⟩

/-- Settles O8: the meaning and the words of CK_ADD; of the corner cases the one for every byte is `ckstep_allOnes`, the
others are fixed words. -/
theorem ckAddStepsChecksum : Obligations.CkAddStepsChecksum := by
  unfold Obligations.CkAddStepsChecksum
  exact ⟨exec_ckAdd, decodeRequest_ckAdd, ckstep_allOnes, by decide⟩

/-- Settles O9: the meaning and the word of CK_READ, R82 for its reserved `DATA`, and the example's five steps. -/
theorem ckReadReturnsChecksum : Obligations.CkReadReturnsChecksum := by
  unfold Obligations.CkReadReturnsChecksum
  exact ⟨exec_ckRead, decodeRequest_ckRead,
    fun _ => answeredIllegal_of_reservedData (op := 0x2) (by decide), by decide⟩

end Sys2Proof.Machine
end

section
/-! The Frame Encoder: its buffer and its frame in the terms of the statements, the bound on its output (R253), and
ENC_ADD and ENC_FRAME with their words (R120, R121). -/

namespace Sys2Proof.Machine

open Sys2Proof

/-! ### The buffer, the frame and the bound -/

/-- Within `ENC_OUT_CAP` is what the encoder's overflow test lets pass. -/
theorem exceeds_encOutCap_eq_false_iff {s : State} {out : List Byte} :
    exceeds s.params.encOutCap out.length = false ↔ EncFits s out := exceeds_eq_false

/-- The start pair goes in front of the first byte of a message only (R24). -/
theorem encOutAfter_nil (b : Byte) : encOutAfter [] b = [startByte, startByte] ++ esc b := rfl

theorem encClose_encoder (s : State) : encClose s.encoder = closedFrame s.encOut s.encCk := by
  simp only [encClose, closedFrame, checksumBytes, List.append_assoc]
  rfl

/-! ### The two operations -/

theorem exec_encAdd (b : Byte) (s : State) :
    exec (.encAdd b) s =
      if exceeds s.params.encOutCap (encOutAfter s.encOut b).length then overflow s
      else returns none { s with encOut := encOutAfter s.encOut b, encCk := ckstep s.encCk b } := rfl

theorem exec_encFrame (s : State) :
    exec .encFrame s =
      if exceeds s.params.encOutCap (closedFrame s.encOut s.encCk).length then overflow s
      else returns (some (.bytes (closedFrame s.encOut s.encCk))) { s with encOut := [], encCk := 0x147A#16 } := by
  rw [← encClose_encoder]
  rfl

theorem exec_encAdd_of_fits {s : State} {b : Byte} (h : EncFits s (encOutAfter s.encOut b)) :
    exec (.encAdd b) s = returns none { s with encOut := encOutAfter s.encOut b, encCk := ckstep s.encCk b } := by
  rw [exec_encAdd, exceeds_encOutCap_eq_false_iff.2 h, if_neg Bool.false_ne_true]

theorem exec_encFrame_of_fits {s : State} (h : EncFits s (closedFrame s.encOut s.encCk)) :
    exec .encFrame s =
      returns (some (.bytes (closedFrame s.encOut s.encCk))) { s with encOut := [], encCk := 0x147A#16 } := by
  rw [exec_encFrame, exceeds_encOutCap_eq_false_iff.2 h, if_neg Bool.false_ne_true]

theorem decodeRequest_encAdd (b : Byte) : decodeRequest { word := mkWord 0x3 b } = .ok (.encAdd b) := by
  simp [decodeRequest, byteRow_mkWord]

theorem decodeRequest_encFrame : decodeRequest { word := mkWord 0x4 0 } = .ok .encFrame := by
  simp [decodeRequest, plainRow_mkWord_zero]

/-- Settles O14: the meaning of ENC_ADD where the longer buffer fits, and its words; the example is a first byte other
than `0xFE`, and one step of the checksum. -/
theorem encAddAppendsEscapedByte : Obligations.EncAddAppendsEscapedByte := by
  unfold Obligations.EncAddAppendsEscapedByte
  refine ⟨fun _ _ => exec_encAdd_of_fits, decodeRequest_encAdd, ?_, by decide⟩
  rw [encOutAfter_nil, esc_of_ne_startByte (by decide)]
  rfl

/-- Settles O15: the meaning of ENC_FRAME where the closed frame fits, its word, and R82 for its reserved `DATA`; the
three examples are fixed buffers and checksums. -/
theorem encFrameReturnsFrame : Obligations.EncFrameReturnsFrame := by
  unfold Obligations.EncFrameReturnsFrame
  exact ⟨fun _ => exec_encFrame_of_fits, decodeRequest_encFrame,
    fun _ => answeredIllegal_of_reservedData (op := 0x4) (by decide), by decide⟩

end Sys2Proof.Machine
end

section
/-! The Frame Decoder: the columns of the transition table that a byte reads, what a byte does to the block where the
buffer keeps within its bound (R140 to R148), and DEC_ADD, DEC_FRAME and DEC_RESET with their words (R141, R149, R150). -/

namespace Sys2Proof.Machine

open Sys2Proof

/-! ### The columns of the table -/

theorem classify_of_eq_startByte {b : Byte} (h : b = startByte) : classify b = .start := by subst h; rfl

theorem classify_of_eq_endByte {b : Byte} (h : b = endByte) : classify b = .endMark := by subst h; rfl

theorem classify_of_eq_escapedStart {b : Byte} (h : b = escapedStart) : classify b = .escaped := by subst h; rfl

theorem classify_of_ne_markers {b : Byte} (hstart : b ≠ startByte) (hend : b ≠ endByte) (hescaped : b ≠ escapedStart) :
    classify b = .other := by
  rw [classify, if_neg hstart, if_neg hend, if_neg hescaped]

theorem classify_ne_start {b : Byte} (h : b ≠ startByte) : classify b ≠ .start := by
  intro hclass
  obtain ⟨-, hb⟩ | ⟨hc, -⟩ | ⟨hc, -⟩ | ⟨hc, -⟩ := classify_cases b
  · exact h hb
  all_goals rw [hc] at hclass; cases hclass

/-- Only S4 tells the three classes other than START apart (R142 to R147). -/
theorem decTable_eq_other_column {st : DecState} {c : ByteClass} (hst : st ≠ .s4) (hc : c ≠ .start) :
    decTable st c = decTable st .other := by
  cases c with
  | start => exact absurd rfl hc
  | endMark | escaped | other =>
    cases st with
    | s4 => exact absurd rfl hst
    | _ => rfl

/-- `DONE` is given in S4 only (R148). -/
theorem doneBit_of_ne_s4 {st : DecState} (hst : st ≠ .s4) (c : ByteClass) : doneBit st c = false := by
  cases st with
  | s4 => exact absurd rfl hst
  | _ => rfl

/-! ### What a byte does to the block -/

/-- Within `DEC_BUF_CAP` is what the decoder's overflow test lets pass. -/
theorem exceeds_decBufCap_eq_false_iff {s : State} {buf : List Byte} :
    exceeds s.params.decBufCap buf.length = false ↔ DecFits s buf := exceeds_eq_false

/-- A byte in an assigned state: the table's cell, or an overflow of an append. -/
theorem consumeByte_of_code {s : State} {st : DecState} (hst : s.decState = st.code) (c : ByteClass) (b : Byte) :
    consumeByte c b s =
      if (decTable st c).2.grows && exceeds s.params.decBufCap ((decTable st c).2.apply b s.decBuf).length then overflow s
      else afterByte s (decTable st c).1.code ((decTable st c).2.apply b s.decBuf) (doneBit st c) := by
  simp only [consumeByte, decStateOf_eq_some.2 hst]
  rfl

theorem consumeByte_of_not_grows {s : State} {c : ByteClass} {b : Byte} (st : DecState) (hst : s.decState = st.code)
    (hgrows : (decTable st c).2.grows = false) :
    consumeByte c b s =
      afterByte s (decTable st c).1.code ((decTable st c).2.apply b s.decBuf) (doneBit st c) := by
  rw [consumeByte_of_code hst, hgrows, Bool.false_and, if_neg Bool.false_ne_true]

theorem consumeByte_of_fits {s : State} {c : ByteClass} {b : Byte} (st : DecState) (hst : s.decState = st.code)
    (hfits : DecFits s ((decTable st c).2.apply b s.decBuf)) :
    consumeByte c b s =
      afterByte s (decTable st c).1.code ((decTable st c).2.apply b s.decBuf) (doneBit st c) := by
  rw [consumeByte_of_code hst, exceeds_decBufCap_eq_false_iff.2 hfits, Bool.and_false, if_neg Bool.false_ne_true]

/-- Outside S4 a byte other than `0xFE` does what one of class OTHER does. -/
theorem consumeByte_other_column {s : State} {b : Byte} (st : DecState) (hst : s.decState = st.code) (hne : st ≠ .s4)
    (hb : b ≠ startByte) : consumeByte (classify b) b s = consumeByte .other b s := by
  simp only [consumeByte_of_code hst, decTable_eq_other_column hne (classify_ne_start hb), doneBit_of_ne_s4 hne]

/-- An instruction that gives the decoder a byte follows the table: each clause is a cell of R140, a row other than
S4's having one for all the bytes that are not `0xFE`. -/
theorem followsTable_of_exec_eq_consumeByte {i : Instr} {b : Byte}
    (hexec : ∀ s, exec i s = consumeByte (classify b) b s) : FollowsTable i b := by
  intro s
  have hother (st : DecState) (hst : s.decState = st.code) (hne : st ≠ .s4) (hb : b ≠ 0xFE#8) :
      exec i s = consumeByte .other b s := (hexec s).trans (consumeByte_other_column st hst hne hb)
  have hcolumn {c : ByteClass} (hc : classify b = c) : exec i s = consumeByte c b s := hc ▸ hexec s
  have hstart (hb : b = 0xFE#8) : exec i s = consumeByte .start b s := hcolumn (classify_of_eq_startByte hb)
  refine ⟨fun hst hb => ?s0_start, fun hst hb => ?s0_other, fun hst hb => ?s1_start, fun hst hb => ?s1_other,
    fun hst hb => ?s2_start, fun hst hb hfits => ?s2_other, fun hst hb => ?s3_start, fun hst hb hfits => ?s3_other,
    fun hst hb => ?s4_start, fun hst hb => ?s4_end, fun hst hb hfits => ?s4_escaped,
    fun hst hne_start hne_end hne_escaped => ?s4_other, fun hst hb => ?s5_start, fun hst hb => ?s5_other⟩
  case s0_start => exact (hstart hb).trans (consumeByte_of_not_grows .s0 hst rfl)
  case s0_other => exact (hother .s0 hst (by decide) hb).trans (consumeByte_of_not_grows .s0 hst rfl)
  case s1_start => exact (hstart hb).trans (consumeByte_of_not_grows .s1 hst rfl)
  case s1_other => exact (hother .s1 hst (by decide) hb).trans (consumeByte_of_not_grows .s1 hst rfl)
  case s2_start => exact (hstart hb).trans (consumeByte_of_not_grows .s2 hst rfl)
  case s2_other => exact (hother .s2 hst (by decide) hb).trans (consumeByte_of_fits .s2 hst hfits)
  case s3_start => exact (hstart hb).trans (consumeByte_of_not_grows .s3 hst rfl)
  case s3_other => exact (hother .s3 hst (by decide) hb).trans (consumeByte_of_fits .s3 hst hfits)
  case s4_start => exact (hstart hb).trans (consumeByte_of_not_grows .s4 hst rfl)
  case s4_end => exact (hcolumn (classify_of_eq_endByte hb)).trans (consumeByte_of_not_grows .s4 hst rfl)
  case s4_escaped => exact (hcolumn (classify_of_eq_escapedStart hb)).trans (consumeByte_of_fits .s4 hst hfits)
  case s4_other =>
    exact (hcolumn (classify_of_ne_markers hne_start hne_end hne_escaped)).trans (consumeByte_of_not_grows .s4 hst rfl)
  case s5_start => exact (hstart hb).trans (consumeByte_of_not_grows .s5 hst rfl)
  case s5_other => exact (hother .s5 hst (by decide) hb).trans (consumeByte_of_not_grows .s5 hst rfl)

/-! ### The three operations -/

theorem exec_decAdd (b : Byte) (s : State) : exec (.decAdd b) s = consumeByte (classify b) b s := rfl

theorem exec_decFrame (s : State) : exec .decFrame s = returns (some (.bytes s.decBuf)) s := rfl

theorem exec_decReset (s : State) : exec .decReset s = returns none { s with decState := 0, decBuf := [] } := rfl

theorem decodeRequest_decAdd (b : Byte) : decodeRequest { word := mkWord 0x5 b } = .ok (.decAdd b) := by
  simp [decodeRequest, byteRow_mkWord]

theorem decodeRequest_decFrame : decodeRequest { word := mkWord 0x6 0 } = .ok .decFrame := by
  simp [decodeRequest, plainRow_mkWord_zero]

theorem decodeRequest_decReset : decodeRequest { word := mkWord 0x7 0 } = .ok .decReset := by
  simp [decodeRequest, plainRow_mkWord_zero]

/-- Settles O20: DEC_ADD gives the decoder its byte in the byte's own class, so it follows the table; and its words. -/
theorem decAddFollowsTable : Obligations.DecAddFollowsTable := by
  unfold Obligations.DecAddFollowsTable
  exact ⟨fun b => followsTable_of_exec_eq_consumeByte (exec_decAdd b), decodeRequest_decAdd⟩

/-- Settles O23: the meaning and the word of DEC_FRAME, and R82 for its reserved `DATA`. -/
theorem decFrameReturnsBuffer : Obligations.DecFrameReturnsBuffer := by
  unfold Obligations.DecFrameReturnsBuffer
  exact ⟨exec_decFrame, decodeRequest_decFrame, fun _ => answeredIllegal_of_reservedData (op := 0x6) (by decide)⟩

/-- Settles O24: the meaning and the word of DEC_RESET, and R82 for its reserved `DATA`. -/
theorem decResetEmptiesDecoder : Obligations.DecResetEmptiesDecoder := by
  unfold Obligations.DecResetEmptiesDecoder
  exact ⟨exec_decReset, decodeRequest_decReset, fun _ => answeredIllegal_of_reservedData (op := 0x7) (by decide)⟩

end Sys2Proof.Machine
end

section
/-! The Message Codec's encoders: what the operand checks answer (R171, R172), the response of MSG_ENC_AUTH at each of
its checks (R173), and MSG_ENC_NODATA, MSG_ENC_SEL and MSG_ENC_AUTH with their words (R174 to R176). -/

namespace Sys2Proof.Machine

open Sys2Proof

/-! ### The operand checks -/

/-- The comparison of bytes in the check is the comparison of their codes in R171's list. -/
theorem isCodeChar_iff_allowedChar {c : Byte} : isCodeChar c = true ↔ AllowedChar c := by
  simp only [isCodeChar, AllowedChar, Bool.or_eq_true, Bool.and_eq_true, decide_eq_true_eq, beq_iff_eq,
    BitVec.le_def, ← BitVec.toNat_inj, BitVec.toNat_ofNat]
  omega

theorem checkcode_of_length_ne {code : List Byte} (hlength : code.length ≠ 16) :
    checkcode code = .error .codeLength := if_pos hlength

theorem checkcode_of_allowed {code : List Byte} (hlength : code.length = 16) (hallowed : ∀ c ∈ code, AllowedChar c) :
    checkcode code = .ok () :=
  checkcode_eq_ok.2 ⟨hlength, fun c hc => isCodeChar_iff_allowedChar.2 (hallowed c hc)⟩

/-- The characters are looked at only where the length is right. -/
theorem checkcode_of_not_allowed {code : List Byte} (hlength : code.length = 16)
    (hbad : ∃ c ∈ code, ¬ AllowedChar c) : checkcode code = .error .codeChar := by
  obtain ⟨c, hc, hnot⟩ := hbad
  cases hcheck : checkcode code with
  | ok =>
    have hchars := (checkcode_eq_ok.1 hcheck).2
    exact absurd (isCodeChar_iff_allowedChar.1 (hchars c hc)) hnot
  | error e =>
    obtain ⟨-, hne⟩ | ⟨rfl, -, -⟩ := checkcode_error hcheck
    · exact absurd hlength hne
    · rfl

theorem checkflags_of_mem {flags : List Bool} {l : LengthSet}
    (hmem : flags.length = l.first ∨ flags.length ∈ l.more) : checkflags flags l = .ok () :=
  checkflags_eq_ok.2 ((LengthSet.has_iff l _).2 hmem)

theorem checkflags_of_not_mem {flags : List Bool} {l : LengthSet}
    (hnot : ¬ (flags.length = l.first ∨ flags.length ∈ l.more)) : checkflags flags l = .error .flagsLength :=
  if_neg fun hhas => hnot ((LengthSet.has_iff l _).1 hhas)

/-! ### The responses -/

section
variable {cat : Catalog} {cmd : Byte} {code : List Byte} {flags : List Bool} {l : LengthSet} {e : Status}

theorem encodeNodata_of_shape (hshape : (Catalog.entry cat cmd).noData = true) :
    encodeNodata cat cmd = framed [cmd] := if_pos hshape

theorem encodeNodata_of_no_shape (hshape : (Catalog.entry cat cmd).noData = false) :
    encodeNodata cat cmd = .error .notInCatalog := by
  rw [encodeNodata, hshape, if_neg Bool.false_ne_true]

theorem encodeSel_of_shape (hshape : (Catalog.entry cat cmd).noDataSel = true) :
    encodeSel cat cmd = framed [cmd, selector] := if_pos hshape

theorem encodeSel_of_no_shape (hshape : (Catalog.entry cat cmd).noDataSel = false) :
    encodeSel cat cmd = .error .notInCatalog := by
  rw [encodeSel, hshape, if_neg Bool.false_ne_true]

theorem encodeAuth_of_no_shape (hshape : (Catalog.entry cat cmd).flagsAuth = none) :
    encodeAuth cat cmd code flags = .error .notInCatalog := by
  simp only [encodeAuth, hshape]

/-- A failing code check is reported before the flags are looked at (R173). -/
theorem encodeAuth_of_checkcode_error (hshape : (Catalog.entry cat cmd).flagsAuth = some l)
    (hcode : checkcode code = .error e) : encodeAuth cat cmd code flags = .error e := by
  simp only [encodeAuth, hshape, hcode]

theorem encodeAuth_of_checkflags_error (hshape : (Catalog.entry cat cmd).flagsAuth = some l)
    (hcode : checkcode code = .ok ()) (hflags : checkflags flags l = .error e) :
    encodeAuth cat cmd code flags = .error e := by
  simp only [encodeAuth, hshape, hcode, hflags]

theorem encodeAuth_of_checks (hshape : (Catalog.entry cat cmd).flagsAuth = some l)
    (hcode : checkcode code = .ok ()) (hflags : checkflags flags l = .ok ()) :
    encodeAuth cat cmd code flags = framed (authPayload cmd code flags) := by
  simp only [encodeAuth, hshape, hcode, hflags]

end

/-! ### The three operations -/

theorem exec_msgEncNodata (cmd : Byte) (s : State) :
    exec (.msgEncNodata cmd) s = reply (encodeNodata s.params.catalog cmd) s := rfl

theorem exec_msgEncSel (cmd : Byte) (s : State) :
    exec (.msgEncSel cmd) s = reply (encodeSel s.params.catalog cmd) s := rfl

theorem exec_msgEncAuth (cmd : Byte) (code : List Byte) (flags : List Bool) (s : State) :
    exec (.msgEncAuth cmd code flags) s = reply (encodeAuth s.params.catalog cmd code flags) s := rfl

theorem reply_framed (p : List Byte) (s : State) : reply (framed p) s = returns (some (.bytes (frameOf p))) s := rfl

theorem reply_error_eq_fails (e : Status) (s : State) : reply (.error e) s = fails e s := rfl

theorem decodeRequest_msgEncNodata (cmd : Byte) :
    decodeRequest { word := mkWord 0x8 cmd } = .ok (.msgEncNodata cmd) := by
  simp [decodeRequest, byteRow_mkWord]

theorem decodeRequest_msgEncSel (cmd : Byte) : decodeRequest { word := mkWord 0x9 cmd } = .ok (.msgEncSel cmd) := by
  simp [decodeRequest, byteRow_mkWord]

theorem decodeRequest_msgEncAuth (cmd : Byte) (code : List Byte) (flags : List Bool) :
    decodeRequest { word := mkWord 0xA cmd, code := some code, flags := some flags } =
      .ok (.msgEncAuth cmd code flags) := by
  simp [decodeRequest, authRow_eq_ok]

/-- Settles O32: the two branches of `encodeNodata`, and the words of MSG_ENC_NODATA. -/
theorem msgEncNodataFramesCommand : Obligations.MsgEncNodataFramesCommand := by
  unfold Obligations.MsgEncNodataFramesCommand
  refine ⟨fun cmd s => ⟨fun hshape => ?listed, fun hshape => ?unlisted⟩, decodeRequest_msgEncNodata⟩
  case listed => rw [exec_msgEncNodata, encodeNodata_of_shape hshape, reply_framed]
  case unlisted => rw [exec_msgEncNodata, encodeNodata_of_no_shape hshape, reply_error_eq_fails]

/-- Settles O33: the two branches of `encodeSel`, whose second byte is `SELECTOR`, and the words of MSG_ENC_SEL. -/
theorem msgEncSelFramesSelector : Obligations.MsgEncSelFramesSelector := by
  unfold Obligations.MsgEncSelFramesSelector
  refine ⟨fun cmd s => ⟨fun hshape => ?listed, fun hshape => ?unlisted⟩, decodeRequest_msgEncSel⟩
  case listed => rw [exec_msgEncSel, encodeSel_of_shape hshape, reply_framed, selector]
  case unlisted => rw [exec_msgEncSel, encodeSel_of_no_shape hshape, reply_error_eq_fails]

/-- Settles O34: one case per check of R173, each check before it having passed, and the words of MSG_ENC_AUTH. -/
theorem msgEncAuthChecksThenFrames : Obligations.MsgEncAuthChecksThenFrames := by
  unfold Obligations.MsgEncAuthChecksThenFrames
  refine ⟨fun cmd code flags s => ?_, decodeRequest_msgEncAuth⟩
  rw [exec_msgEncAuth]
  refine ⟨fun hshape => ?notInCatalog, fun l hshape => ⟨fun hlength => ?codeLength, fun hlength hbad => ?codeChar,
    fun hlength hallowed hnot => ?flagsLength, fun hlength hallowed hmem => ?framed⟩⟩
  case notInCatalog => rw [encodeAuth_of_no_shape hshape, reply_error_eq_fails]
  case codeLength =>
    rw [encodeAuth_of_checkcode_error hshape (checkcode_of_length_ne hlength), reply_error_eq_fails]
  case codeChar =>
    rw [encodeAuth_of_checkcode_error hshape (checkcode_of_not_allowed hlength hbad), reply_error_eq_fails]
  case flagsLength =>
    rw [encodeAuth_of_checkflags_error hshape (checkcode_of_allowed hlength hallowed) (checkflags_of_not_mem hnot),
      reply_error_eq_fails]
  case framed =>
    rw [encodeAuth_of_checks hshape (checkcode_of_allowed hlength hallowed) (checkflags_of_mem hmem), reply_framed,
      authPayload]

end Sys2Proof.Machine
end

section
/-! The Message Codec's decoder and Dispatch: a payload taken apart into code, data and checksum (R200), the answer
variants against their data lengths (R204 to R207), MSG_DECODE and MSG_DISPATCH with their words (R201, R202), and what
is read from an answer (R208 to R214). -/

namespace Sys2Proof.Machine

open Sys2Proof

/-! ### The payload -/

/-- The last two bytes of a payload are compared with the checksum of the others, high byte first (R55). -/
theorem checksumMatches_append_iff {q : List Byte} {hi lo : Byte} :
    checksumMatches (q ++ [hi, lo]) = true ↔ hi = hiByte (ckfold seed q) ∧ lo = loByte (ckfold seed q) := by
  simp [checksumMatches, eq_comm (a := hi), eq_comm (a := lo)]

section
variable {cat : Catalog} {code hi lo : Byte} {data : List Byte}

theorem decodePayload_of_short {p : List Byte} (hshort : p.length < minPayload) : decodePayload cat p = none :=
  if_pos hshort

theorem not_short_of_three_parts : ¬ (code :: data ++ [hi, lo]).length < minPayload := by
  simp [minPayload]

theorem decodePayload_of_checksum_differs
    (hck : ¬ (hi = hiByte (ckfold seed (code :: data)) ∧ lo = loByte (ckfold seed (code :: data)))) :
    decodePayload cat (code :: data ++ [hi, lo]) = none := by
  rw [decodePayload, if_neg not_short_of_three_parts, if_neg fun hmatch => hck (checksumMatches_append_iff.1 hmatch)]

/-- With the right checksum only the variant of the code decides, on the bytes between code and checksum. -/
theorem decodePayload_of_checksum
    (hck : hi = hiByte (ckfold seed (code :: data)) ∧ lo = loByte (ckfold seed (code :: data))) :
    decodePayload cat (code :: data ++ [hi, lo]) =
      (Catalog.entry cat code).ans.bind fun v => decodeVariant code v data := by
  have hdata : ((code :: data ++ [hi, lo]).take ((code :: data ++ [hi, lo]).length - 2)).drop 1 = data := by simp
  have hcode : (code :: data ++ [hi, lo]).getD 0 0 = code := rfl
  rw [decodePayload, if_neg not_short_of_three_parts, if_pos (checksumMatches_append_iff.2 hck), hdata, hcode]
  cases hans : (Catalog.entry cat code).ans with
  | none => simp only [hans, Option.bind_none]
  | some v => simp only [hans, Option.bind_some]

end

/-- Settles O38: the three ways a payload is refused before its data is looked at, and the variant's decoding of the
data where it is not. -/
theorem decodePayloadSteps : Obligations.DecodePayloadSteps := by
  unfold Obligations.DecodePayloadSteps
  refine fun cat p => ⟨decodePayload_of_short, ?_⟩
  rintro code hi lo data rfl
  refine ⟨decodePayload_of_checksum_differs, fun hhi hlo => ?_⟩
  rw [decodePayload_of_checksum ⟨hhi, hlo⟩]
  refine ⟨fun hans => ?noVariant, fun v hans => ?variant⟩
  case noVariant => rw [hans, Option.bind_none]
  case variant => rw [hans, Option.bind_some]

/-! ### The answer variants -/

section
variable {code : Byte} {data : List Byte} {a : LengthSet}

theorem decodeVariant_flagArray_of_mem (hmem : data.length = a.first ∨ data.length ∈ a.more) :
    decodeVariant code (.flagArray a) data = some (.flags code (unpackflags data)) :=
  if_pos ((LengthSet.has_iff a _).2 hmem)

theorem decodeVariant_flagArray_of_not_mem (hnot : ¬ (data.length = a.first ∨ data.length ∈ a.more)) :
    decodeVariant code (.flagArray a) data = none :=
  if_neg fun hhas => hnot ((LengthSet.has_iff a _).1 hhas)

theorem decodeVariant_changeNotify_of_mem (hmem : data.length ∈ changeLengths) :
    decodeVariant code .changeNotify data = some (.change code (unpackflags data)) :=
  if_pos (List.contains_iff_mem.2 hmem)

theorem decodeVariant_changeNotify_of_not_mem (hnot : data.length ∉ changeLengths) :
    decodeVariant code .changeNotify data = none :=
  if_neg fun hhas => hnot (List.contains_iff_mem.1 hhas)

theorem decodeVariant_result_singleton (r : Byte) : decodeVariant code .result [r] = some (.result code r) := rfl

theorem decodeVariant_result_of_length_ne (hlength : data.length ≠ 1) : decodeVariant code .result data = none :=
  if_neg fun hhas => hlength (List.mem_singleton.1 (List.contains_iff_mem.1 hhas))

end

/-- Settles O39: the two branches of each variant. -/
theorem decodeVariantLengths : Obligations.DecodeVariantLengths := by
  unfold Obligations.DecodeVariantLengths
  refine fun code data => ⟨fun a => ⟨decodeVariant_flagArray_of_mem, decodeVariant_flagArray_of_not_mem⟩,
    decodeVariant_changeNotify_of_mem, decodeVariant_changeNotify_of_not_mem, ?_, decodeVariant_result_of_length_ne⟩
  rintro r rfl
  exact decodeVariant_result_singleton r

/-! ### MSG_DECODE -/

theorem exec_msgDecode (raw : List Byte) (s : State) :
    exec (.msgDecode raw) s = returns (some (.answer (decodeMessage s.params.catalog raw))) s := rfl

/-- MSG_DECODE's message is the payload of the first completed frame, if there is one. -/
theorem decodeMessage_eq_bind (cat : Catalog) (raw : List Byte) :
    decodeMessage cat raw = (firstFrame freshDecoder raw).bind (decodePayload cat) := by
  unfold decodeMessage
  cases firstFrame freshDecoder raw <;> rfl

theorem firstFrame_nil (d : Decoder) : firstFrame d [] = none := rfl

section
variable {d : Decoder} {b : Byte} {rest : List Byte}

theorem firstFrame_cons_of_done (hdone : (decstep d b).2 = true) :
    firstFrame d (b :: rest) = some (decstep d b).1.buf := if_pos hdone

theorem firstFrame_cons_of_not_done (hdone : (decstep d b).2 = false) :
    firstFrame d (b :: rest) = firstFrame (decstep d b).1 rest := by
  rw [firstFrame, hdone, if_neg Bool.false_ne_true]

end

theorem decodeRequest_msgDecode (raw : List Byte) :
    decodeRequest { word := mkWord 0xB 0, raw := some raw } = .ok (.msgDecode raw) := by
  simp [decodeRequest, rawRow_eq_ok]

/-- `portIllegal_of_reservedData` for MSG_DECODE's own operand: R82 refuses the reserved `DATA` whatever `RAW` is. -/
theorem portIllegal_msgDecode_of_reservedData {d : Byte} (hd : d ≠ 0) (raw : List Byte) :
    PortIllegal { word := mkWord 0xB d, raw := some raw } := by
  refine .inr (.inl ⟨?_, ?_⟩)
  · rw [Laws.OpcodeBits.mkWord_div]; decide
  · rwa [ne_eq, ← dataField_eq_zero_iff, dataField_mkWord]

/-- Settles O40: the value of MSG_DECODE by the first completed frame, the recursion that finds it, and the word. -/
theorem msgDecodeAnswersFirstFrame : Obligations.MsgDecodeAnswersFirstFrame := by
  unfold Obligations.MsgDecodeAnswersFirstFrame
  refine ⟨fun raw s => ?answer, fun d b rest => ?recursion, decodeRequest_msgDecode, fun d raw hd => ?reserved⟩
  case answer =>
    rw [exec_msgDecode, decodeMessage_eq_bind, freshDecoder]
    refine ⟨fun hnone => ?_, fun p hframe => ?_⟩
    · rw [hnone, Option.bind_none]
    · rw [hframe, Option.bind_some]
  case recursion => exact ⟨firstFrame_nil d, firstFrame_cons_of_done, firstFrame_cons_of_not_done⟩
  case reserved => exact illegalRequestAnsweredIllegalOp.1 _ (portIllegal_msgDecode_of_reservedData hd raw)

/-! ### MSG_DISPATCH -/

theorem exec_msgDispatch_of_s5 {s : State} (hst : s.decState = DecState.s5.code) :
    exec .msgDispatch s = returns (some (.answer (decodePayload s.params.catalog s.decBuf))) s := by
  change execMsgDispatch s = _
  simp only [execMsgDispatch, decStateOf_eq_some.2 hst]
  rfl

theorem exec_msgDispatch_of_ne_s5 {s : State} {st : DecState} (hst : s.decState = st.code) (hne : st ≠ .s5) :
    exec .msgDispatch s = returns (some (.answer none)) s := by
  change execMsgDispatch s = _
  simp only [execMsgDispatch, decStateOf_eq_some.2 hst]
  cases st with
  | s5 => exact absurd rfl hne
  | s0 | s1 | s2 | s3 | s4 => rfl

/-- The codes below 5 are those of S0 to S4 (R25). -/
theorem exists_code_ne_s5_of_lt {c : BitVec 3} (hlt : c.toNat < 5) : ∃ st : DecState, c = st.code ∧ st ≠ .s5 := by
  cases hst : decStateOf c with
  | none =>
    obtain rfl | rfl := decStateOf_eq_none.1 hst
    · exact absurd hlt (by decide)
    · exact absurd hlt (by decide)
  | some st =>
    obtain rfl := decStateOf_eq_some.1 hst
    refine ⟨st, rfl, ?_⟩
    rintro rfl
    exact absurd hlt (by decide)

theorem decodeRequest_msgDispatch : decodeRequest { word := mkWord 0xC 0 } = .ok .msgDispatch := by
  simp [decodeRequest, plainRow_mkWord_zero]

/-- Settles O41: MSG_DISPATCH in S5 and in the assigned states before it, its word, and R82 for its reserved `DATA`. -/
theorem msgDispatchDecodesCompletedFrame : Obligations.MsgDispatchDecodesCompletedFrame := by
  unfold Obligations.MsgDispatchDecodesCompletedFrame
  refine ⟨fun s => exec_msgDispatch_of_s5, fun s hlt => ?before, decodeRequest_msgDispatch,
    fun _ => answeredIllegal_of_reservedData (op := 0xC) (by decide)⟩
  case before =>
    obtain ⟨st, hst, hne⟩ := exists_code_ne_s5_of_lt hlt
    exact exec_msgDispatch_of_ne_s5 hst hne

/-! ### The result table and the accessors -/

/-- Settles O46: on the code as a number, one case per row of the table, and the last for the codes it does not list. -/
theorem resultCodeKinds : Obligations.ResultCodeKinds := by
  unfold Obligations.ResultCodeKinds
  intro r
  simp only [resultKind, ← BitVec.toNat_inj, BitVec.toNat_ofNat, Nat.reducePow, Nat.reduceMod]
  generalize r.toNat = n
  split
  case h_13 => simp_all
  all_goals rfl

theorem Answer.flag_of_flagList {a : Answer} {f : List Bool} (h : a.flagList = some f) (i : Nat) :
    a.flag i = f[i]? := by
  simp only [Answer.flag, h]

theorem Answer.flag_of_no_flagList {a : Answer} (h : a.flagList = none) (i : Nat) : a.flag i = none := by
  simp only [Answer.flag, h]

theorem Answer.changed_change (c : Byte) (f : List Bool) (k : Byte) : (Answer.change c f).changed k = f[k.toNat]? :=
  Answer.flag_of_flagList (a := .change c f) rfl k.toNat

theorem Answer.resultText?_of_kind {a : Answer} {kind : ResultKind} (h : a.resultKind? = some kind) (t : ResultTexts) :
    a.resultText? t = some (resultText t kind) := by
  rw [Answer.resultText?, h, Option.map_some]

theorem Answer.resultText?_of_no_kind {a : Answer} (h : a.resultKind? = none) (t : ResultTexts) :
    a.resultText? t = none := by
  rw [Answer.resultText?, h, Option.map_none]

/-- Settles O47: which variants have a flag list and which a result kind; the indexed accessors follow the list and the
text follows the kind. -/
theorem answerAccessors : Obligations.AnswerAccessors := by
  unfold Obligations.AnswerAccessors
  refine ⟨fun c f t i k => ⟨rfl, rfl, ?flag, ?flag', rfl, ?changed, rfl, rfl, ?text, ?text'⟩,
    fun c r t i k => ⟨rfl, ?noFlag, rfl, rfl, ?resultText⟩, fun t => ⟨rfl, rfl⟩⟩
  case flag | flag' => exact Answer.flag_of_flagList rfl i
  case changed => exact Answer.changed_change c f k
  case text | text' => exact Answer.resultText?_of_no_kind rfl t
  case noFlag => exact Answer.flag_of_no_flagList rfl i
  case resultText => exact Answer.resultText?_of_kind rfl t

end Sys2Proof.Machine
end

section
/-! Error statuses (R241): how performing a request can end, for every instruction, and that a step whose response has
an error status did nothing but take its packet off the port and answer. -/

namespace Sys2Proof.Machine

open Sys2Proof

/-! ### How performing a request ends -/

/-- How a request performed in `s` can end in `t`: with status `OK` and any effect (R84), with `FAULT_OVERFLOW` and no
response (R253), or with an error status and no other effect (R241). -/
inductive RequestEnd (s t : State) : Prop
  | completed (v : Option Value) (responses_eq : t.responses = s.responses ++ [.okay v])
  | overflowed (eq_faulted : t = { s with faulted := true })
  | failed (e : Status) (eq_failed : t = s.respond (.failed e))

section
variable {s t u : State} {v : Option Value}

/-- The state `u` is `s` after the operation's own effect, before the response. -/
theorem RequestEnd.of_complete (h : complete v u = .next t) (hresponses : u.responses = s.responses) :
    RequestEnd s t := by
  refine .completed v ?_
  rw [complete_next_iff.1 h, State.respond_responses, hresponses]

/-- An operation under a capacity bound, the encoder's two (R32, R253). -/
theorem RequestEnd.of_bounded {full : Bool} (h : (if full then overflow s else complete v u) = .next t)
    (hresponses : u.responses = s.responses) : RequestEnd s t := by
  cases full with
  | true => exact .overflowed (overflow_next_iff.1 h)
  | false => exact .of_complete h hresponses

theorem RequestEnd.of_reply {r : Except Status Value} (h : reply r s = .next t) : RequestEnd s t := by
  obtain ⟨v, -, rfl⟩ | ⟨e, -, rfl⟩ := reply_next_iff.1 h
  · exact .completed (some v) rfl
  · exact .failed e rfl

theorem RequestEnd.of_consumeByte {c : ByteClass} {b : Byte} (h : consumeByte c b s = .next t) : RequestEnd s t := by
  obtain ⟨st, -, ⟨hoverflow, -⟩ | ⟨hcomplete, -⟩⟩ := consumeByte_next h
  · exact .overflowed hoverflow
  · exact .of_complete (complete_next_iff.2 hcomplete) rfl

theorem RequestEnd.of_execMsgDispatch (h : execMsgDispatch s = .next t) : RequestEnd s t := by
  unfold execMsgDispatch at h
  split at h
  · cases h
  · exact .of_complete h rfl
  · exact .of_complete h rfl

/-- Every instruction ends in one of the three ways: only the three encoders of the Message Codec can fail. -/
theorem exec_requestEnd {i : Instr} (h : exec i s = .next t) : RequestEnd s t := by
  cases i with
  | ckInit | ckAdd | ckRead | decFrame | decReset | msgDecode => exact .of_complete h rfl
  | encAdd | encFrame => exact .of_bounded h rfl
  | decAdd | wireStart | wireEnd | wireEscapedStart | wireOther => exact .of_consumeByte h
  | msgEncNodata | msgEncSel | msgEncAuth => exact .of_reply h
  | msgDispatch => exact .of_execMsgDispatch h

/-! ### What an error response says about the step -/

variable {e : Status}

/-- Of the three ends only the failing one answers an error status. -/
theorem RequestEnd.of_error_response (hend : RequestEnd s t) (herror : e ≠ .ok)
    (hresponses : t.responses = s.responses ++ [{ status := e, value := v }]) :
    v = none ∧ t = s.respond (.failed e) := by
  cases hend with
  | completed w hcompleted =>
    obtain ⟨hok, -⟩ : e = .ok ∧ v = w := by simpa [Response.okay] using hresponses.symm.trans hcompleted
    exact absurd hok herror
  | overflowed hoverflow => simp [hoverflow] at hresponses
  | failed e' hfailed =>
    obtain ⟨rfl, rfl⟩ : e' = e ∧ none = v := by simpa [hfailed, Response.failed] using hresponses
    exact ⟨rfl, hfailed⟩

/-- A step that answers was not faulted, took a packet off the port and performed a request: a reset and an idle step
answer nothing. -/
theorem step_requestEnd_of_response {r : Response} (hstep : step s = .next t)
    (hresponses : t.responses = s.responses ++ [r]) :
    ∃ rest, s.faulted = false ∧ RequestEnd (s.consume rest) t := by
  obtain ⟨rest, -, hreset⟩ | ⟨p, rest, i, -, hlive, -, hexec⟩ | ⟨p, rest, reject, -, hlive, -, hillegal⟩ |
    ⟨-, -, hidle⟩ := step_next hstep
  · simp [hreset] at hresponses
  · exact ⟨rest, hlive, exec_requestEnd hexec⟩
  · exact ⟨rest, hlive, .failed .illegalOp hillegal⟩
  · simp [hidle] at hresponses

end

/-- Settles O49: a step that answers ends a request, and the one end with an error status is the request's state with
that response added. -/
theorem errorsChangeNothing : Obligations.ErrorsChangeNothing := by
  unfold Obligations.ErrorsChangeNothing
  intro s t e v hstep herror hresponses
  obtain ⟨rest, hlive, hend⟩ := step_requestEnd_of_response hstep hresponses
  obtain ⟨hvalue, rfl⟩ := hend.of_error_response herror hresponses
  exact ⟨hvalue, rfl, rfl, hlive⟩

end Sys2Proof.Machine
end

section
/-! The encodings: decoding an encoded instruction (R73, R80, R81), encoding what a packet decodes to, the words of the
opcode table, and the step that performs an accepted packet. -/

namespace Sys2Proof.Machine

open Sys2Proof

/-! ### Decoding what was encoded -/

theorem decodeWire_of_classify_other {b : Byte} (h : classify b = .other) : decodeWire b = .wireOther b := by
  simp only [decodeWire, h]

theorem wellFormed_wireOther_iff {b : Byte} :
    WellFormed (.wireOther b) ↔ b ≠ startByte ∧ b ≠ endByte ∧ b ≠ escapedStart := by
  simp [WellFormed, Instr.wf, and_assoc]

/-- Settles O1: one word per port row, each read back by its row of the opcode map, and one byte per wire row; a byte of
WIRE_OTHER is none of the three markers, which is its well-formedness. -/
theorem encodeThenDecode : Obligations.EncodeThenDecode := by
  unfold Obligations.EncodeThenDecode
  intro i hwf
  cases i with
  | ckInit => exact decodeRequest_ckInit
  | ckAdd b => exact decodeRequest_ckAdd b
  | ckRead => exact decodeRequest_ckRead
  | encAdd b => exact decodeRequest_encAdd b
  | encFrame => exact decodeRequest_encFrame
  | decAdd b => exact decodeRequest_decAdd b
  | decFrame => exact decodeRequest_decFrame
  | decReset => exact decodeRequest_decReset
  | msgEncNodata cmd => exact decodeRequest_msgEncNodata cmd
  | msgEncSel cmd => exact decodeRequest_msgEncSel cmd
  | msgEncAuth cmd code flags => exact decodeRequest_msgEncAuth cmd code flags
  | msgDecode raw => exact decodeRequest_msgDecode raw
  | msgDispatch => exact decodeRequest_msgDispatch
  | wireStart | wireEnd | wireEscapedStart => rfl
  | wireOther b =>
    obtain ⟨hstart, hend, hescaped⟩ := wellFormed_wireOther_iff.1 hwf
    exact congrArg Except.ok (decodeWire_of_classify_other (classify_of_ne_markers hstart hend hescaped))

/-! ### Encoding what was decoded -/

/-- A request word is its `OP` beside its `DATA`, so a row that fixes `OP` leaves only `DATA` open. -/
theorem word_eq_mkWord {w : BitVec 12} {op : BitVec 4} (hop : (opField w).toNat = op.toNat) :
    w = mkWord op (dataField w) := by
  rw [← BitVec.eq_of_toNat_eq hop, mkWord_fields]

section
variable {r : Request} {op : BitVec 4} {j : Instr}

theorem encode_of_plainRow {i : Instr} (hop : (opField r.word).toNat = op.toNat)
    (hencode : encode i = .request { word := mkWord op 0 }) (h : plainRow r i = .ok j) : encode j = .request r := by
  obtain ⟨hdata, ⟨hraw, hcode, hflags⟩, rfl⟩ := plainRow_eq_ok.1 h
  obtain ⟨w, raw, code, flags⟩ := r
  subst hraw hcode hflags
  rw [hencode, ← hdata, ← word_eq_mkWord hop]

theorem encode_of_byteRow {mk : Byte → Instr} (hop : (opField r.word).toNat = op.toNat)
    (hencode : ∀ b, encode (mk b) = .request { word := mkWord op b }) (h : byteRow r mk = .ok j) :
    encode j = .request r := by
  obtain ⟨⟨hraw, hcode, hflags⟩, rfl⟩ := byteRow_eq_ok.1 h
  obtain ⟨w, raw, code, flags⟩ := r
  subst hraw hcode hflags
  rw [hencode, ← word_eq_mkWord hop]

theorem encode_of_authRow (hop : (opField r.word).toNat = 0xA) (h : authRow r = .ok j) : encode j = .request r := by
  obtain ⟨c, f, hraw, hcode, hflags, rfl⟩ := authRow_eq_ok.1 h
  obtain ⟨w, raw, code, flags⟩ := r
  subst hraw hcode hflags
  rw [encode, ← word_eq_mkWord (op := 0xA) hop]

theorem encode_of_rawRow (hop : (opField r.word).toNat = 0xB) (h : rawRow r = .ok j) : encode j = .request r := by
  obtain ⟨hdata, operand, hraw, hcode, hflags, rfl⟩ := rawRow_eq_ok.1 h
  obtain ⟨w, raw, code, flags⟩ := r
  subst hraw hcode hflags
  rw [encode, ← hdata, ← word_eq_mkWord (op := 0xB) hop]

end

/-- One case per row of the opcode map: the row's `OP`, `DATA` and operands are all of the request. -/
theorem encode_of_decodeRequest {r : Request} {i : Instr} (h : decodeRequest r = .ok i) : encode i = .request r := by
  unfold decodeRequest at h
  split at h
  case h_1 hop => exact encode_of_plainRow (op := 0x0) hop rfl h
  case h_2 hop => exact encode_of_byteRow (op := 0x1) hop (fun _ => rfl) h
  case h_3 hop => exact encode_of_plainRow (op := 0x2) hop rfl h
  case h_4 hop => exact encode_of_byteRow (op := 0x3) hop (fun _ => rfl) h
  case h_5 hop => exact encode_of_plainRow (op := 0x4) hop rfl h
  case h_6 hop => exact encode_of_byteRow (op := 0x5) hop (fun _ => rfl) h
  case h_7 hop => exact encode_of_plainRow (op := 0x6) hop rfl h
  case h_8 hop => exact encode_of_plainRow (op := 0x7) hop rfl h
  case h_9 hop => exact encode_of_byteRow (op := 0x8) hop (fun _ => rfl) h
  case h_10 hop => exact encode_of_byteRow (op := 0x9) hop (fun _ => rfl) h
  case h_11 hop => exact encode_of_authRow hop h
  case h_12 hop => exact encode_of_rawRow hop h
  case h_13 hop => exact encode_of_plainRow (op := 0xC) hop rfl h
  case h_14 => cases h

theorem decodeWire_wellFormed (b : Byte) : WellFormed (decodeWire b) := by
  unfold decodeWire
  obtain ⟨hc, -⟩ | ⟨hc, -⟩ | ⟨hc, -⟩ | ⟨hc, hmarkers⟩ := classify_cases b
  · rw [hc]; rfl
  · rw [hc]; rfl
  · rw [hc]; rfl
  · rw [hc]; exact wellFormed_wireOther_iff.2 hmarkers

theorem encode_decodeWire (b : Byte) : encode (decodeWire b) = .wire b := by
  unfold decodeWire
  obtain ⟨hc, hb⟩ | ⟨hc, hb⟩ | ⟨hc, hb⟩ | ⟨hc, -⟩ := classify_cases b
  · rw [hc, hb]; rfl
  · rw [hc, hb]; rfl
  · rw [hc, hb]; rfl
  · rw [hc]; rfl

theorem wellFormed_of_decode {p : Packet} {i : Instr} (h : decode p = .ok i) : WellFormed i := by
  cases p with
  | request r => exact (decodeRequest_followsR82 r).wellFormed i h
  | wire b =>
    obtain rfl := Except.ok.inj h
    exact decodeWire_wellFormed b

/-- Settles O2: a request by the row that accepts it, a wire byte by its class. -/
theorem decodeThenEncode : Obligations.DecodeThenEncode := by
  unfold Obligations.DecodeThenEncode
  intro p i h
  refine ⟨wellFormed_of_decode h, ?_⟩
  cases p with
  | request r => exact encode_of_decodeRequest h
  | wire b =>
    obtain rfl := Except.ok.inj h
    exact encode_decodeWire b

/-! ### The words of the opcode table -/

/-- A table word is read as the instruction whose packet it stands for. -/
theorem decodeTableWord_of_encode {nbits w : Nat} {i : Instr} (hwf : WellFormed i)
    (hbits : w < if nbits ≤ 8 then 256 else 4096) (hpacket : tablePacket nbits w = encode i) :
    decodeTableWord nbits w = some i := by
  simp only [decodeTableWord, hbits, hpacket, encodeThenDecode i hwf, if_true]

/-- Settles O3: each word written out is the encoding of its row (log 4, log 17), so it decodes to it. -/
theorem opcodeMapWordsDecode : Obligations.OpcodeMapWordsDecode := by
  unfold Obligations.OpcodeMapWordsDecode
  refine ⟨?_, ?_, ?_, ?_, ?_, ?_, ?_, ?_, ?_, ?_, ?_, ?_, ?_, ?_, ?_, ?_, ?_⟩
  all_goals exact decodeTableWord_of_encode (by decide) (by decide) (by decide)

/-! ### The step that performs a packet -/

/-- The port accepts what decodes and is not over-long (R82, R83). -/
theorem accept_of_decode {cap : Option Nat} {p : Packet} {i : Instr} (hdecode : decode p = .ok i)
    (hlong : ∀ r, p = .request r → r.tooLong cap = false) : accept cap p = .ok i := by
  cases p with
  | wire b => exact hdecode
  | request r => rw [accept, hlong r rfl, if_neg Bool.false_ne_true]; exact hdecode

theorem step_of_accept_ok {s : State} {p : Packet} {rest : List Event} {i : Instr}
    (hpending : s.pending = .packet p :: rest) (hlive : s.faulted = false)
    (haccept : accept s.params.seqCap p = .ok i) : step s = exec i { s with pending := rest } := by
  have hexec : step s = exec i (s.consume rest) := by simp [step, hpending, hlive, haccept]
  exact hexec

/-- Settles O4: the port accepts the packet, and a step performs what it accepts. -/
theorem stepRunsDecodedInstruction : Obligations.StepRunsDecodedInstruction := by
  unfold Obligations.StepRunsDecodedInstruction
  intro s p rest i hpending hlive hdecode hlong
  exact step_of_accept_ok hpending hlive (accept_of_decode hdecode hlong)

end Sys2Proof.Machine
end

section
/-! What performing an instruction can do to the state: which register, buffer or fault each operation writes (R20), where
it overflows (R253), and the invariant of encoder, decoder and capacities (R22 to R27, R32) along every step. -/

namespace Sys2Proof.Machine

open Sys2Proof

/-! ### A byte delivered to the decoder -/

/-- Every way of delivering a byte gives it to the decoder in its own class (R73, R141). -/
theorem exec_of_delivers {i : Instr} {b : Byte} (h : Delivers i b) (s : State) :
    exec i s = consumeByte (classify b) b s := by
  obtain rfl | ⟨rfl, rfl⟩ | ⟨rfl, rfl⟩ | ⟨rfl, rfl⟩ | ⟨rfl, hstart, hend, hescaped⟩ := h
  · rfl
  · rfl
  · rfl
  · rfl
  · rw [classify_of_ne_markers hstart hend hescaped]; rfl

/-- A well-formed WIRE_OTHER delivers its byte. -/
theorem delivers_of_wellFormed {b : Byte} (h : WellFormed (.wireOther b)) : Delivers (.wireOther b) b :=
  .inr (.inr (.inr (.inr ⟨rfl, wellFormed_wireOther_iff.1 h⟩)))

theorem followsTable_of_delivers {i : Instr} {b : Byte} (h : Delivers i b) : FollowsTable i b :=
  followsTable_of_exec_eq_consumeByte (exec_of_delivers h)

/-- Settles O21: a wire row delivers its byte (log 3), and what delivers a byte follows the table. -/
theorem wireBytesFollowTable : Obligations.WireBytesFollowTable := by
  unfold Obligations.WireBytesFollowTable
  refine ⟨followsTable_of_delivers ?start, followsTable_of_delivers ?endMark, followsTable_of_delivers ?escaped,
    fun b hwf => followsTable_of_delivers (delivers_of_wellFormed hwf)⟩
  case start => exact .inr (.inl ⟨rfl, rfl⟩)
  case endMark => exact .inr (.inr (.inl ⟨rfl, rfl⟩))
  case escaped => exact .inr (.inr (.inr (.inl ⟨rfl, rfl⟩)))

/-- Settles O22: `decStateOf` has no state for the codes 6 and 7, and both operations look there first (log 12). -/
theorem unassignedDecStateFaults : Obligations.UnassignedDecStateFaults := by
  unfold Obligations.UnassignedDecStateFaults
  intro i b s hi hst
  have hnone : decStateOf s.decState = none := decStateOf_eq_none.2 hst
  obtain hdelivers | rfl := hi
  · rw [exec_of_delivers hdelivers]
    simp only [consumeByte, hnone]
  · change execMsgDispatch s = _
    simp only [execMsgDispatch, hnone]

/-! ### Overflow -/

theorem consumeByte_of_not_fits {s : State} {c : ByteClass} {b : Byte} (st : DecState) (hst : s.decState = st.code)
    (hgrows : (decTable st c).2.grows = true) (hfull : ¬ DecFits s ((decTable st c).2.apply b s.decBuf)) :
    consumeByte c b s = overflow s := by
  have hexceeds : exceeds s.params.decBufCap ((decTable st c).2.apply b s.decBuf).length = true := by
    rwa [← Bool.not_eq_false, exceeds_decBufCap_eq_false_iff]
  rw [consumeByte_of_code hst, hgrows, hexceeds, Bool.and_self, if_pos rfl]

/-- The rows of the table that append are S2, S3 and the escape of S4 (R140). -/
theorem consumeByte_of_decOverflows {s : State} {b : Byte} (h : DecOverflows s b) :
    consumeByte (classify b) b s = overflow s := by
  obtain ⟨hst | hst, hb, hfull⟩ | ⟨hst, hb, hfull⟩ := h
  · rw [consumeByte_other_column .s2 hst (by decide) hb]
    exact consumeByte_of_not_fits .s2 hst rfl hfull
  · rw [consumeByte_other_column .s3 hst (by decide) hb]
    exact consumeByte_of_not_fits .s3 hst rfl hfull
  · rw [classify_of_eq_escapedStart hb]
    exact consumeByte_of_not_fits .s4 hst rfl hfull

theorem exceeds_encOutCap_eq_true_iff {s : State} {out : List Byte} :
    exceeds s.params.encOutCap out.length = true ↔ ¬ EncFits s out := by
  rw [← Bool.not_eq_false, exceeds_encOutCap_eq_false_iff]

theorem exec_encAdd_of_not_fits {s : State} {b : Byte} (h : ¬ EncFits s (encOutAfter s.encOut b)) :
    exec (.encAdd b) s = overflow s := by
  rw [exec_encAdd, if_pos (exceeds_encOutCap_eq_true_iff.2 h)]

theorem exec_encFrame_of_not_fits {s : State} (h : ¬ EncFits s (closedFrame s.encOut s.encCk)) :
    exec .encFrame s = overflow s := by
  rw [exec_encFrame, if_pos (exceeds_encOutCap_eq_true_iff.2 h)]

/-- Settles O31: each of the three appends ends in `overflow`, which sets the flag alone (log 7). -/
theorem overflowChangesNothingElse : Obligations.OverflowChangesNothingElse := by
  unfold Obligations.OverflowChangesNothingElse
  refine ⟨fun b s => exec_encAdd_of_not_fits, fun s => exec_encFrame_of_not_fits, fun i b s hdelivers hoverflows => ?_⟩
  rw [exec_of_delivers hdelivers]
  exact consumeByte_of_decOverflows hoverflows

/-- A full buffer has a capacity. -/
theorem cap_ne_none_of_exceeds {cap : Option Nat} {n : Nat} (h : exceeds cap n = true) : cap ≠ none := by
  rintro rfl
  exact Bool.false_ne_true h

/-! ### What an instruction can do -/

/-- What performing `i` in `s` can leave: each constructor is the operations that write one part of R20's tuple, with the
one response they give, and the last is FAULT_OVERFLOW. A byte is of its own class when the instruction delivers it, which
an ill-formed WIRE_OTHER does not. -/
inductive ExecEffect (i : Instr) (s t : State) : Prop
  | read (r : Response) (eq_respond : t = s.respond r)
  | checksum (writer : i = .ckInit ∨ ∃ b, i = .ckAdd b) (v : U16) (r : Response)
      (eq_respond : t = State.respond { s with ck := v } r)
  | encAdded (b : Byte) (writer : i = .encAdd b) (fits : EncFits s (encOutAfter s.encOut b)) (r : Response)
      (eq_respond : t = State.respond { s with encOut := encOutAfter s.encOut b, encCk := ckstep s.encCk b } r)
  | encFramed (writer : i = .encFrame) (r : Response)
      (eq_respond : t = State.respond { s with encOut := [], encCk := 0x147A#16 } r)
  | decReset (writer : i = .decReset) (r : Response)
      (eq_respond : t = State.respond { s with decState := 0, decBuf := [] } r)
  | delivered (c : ByteClass) (b : Byte) (writer : Delivers i b ∨ i = .wireOther b)
      (own_class : Delivers i b → c = classify b) (st : DecState) (state_eq : s.decState = st.code)
      (fits : (decTable st c).2.grows = true → DecFits s ((decTable st c).2.apply b s.decBuf)) (r : Response)
      (eq_respond : t = State.respond
        { s with decState := (decTable st c).1.code, decBuf := (decTable st c).2.apply b s.decBuf } r)
  | overflowed (bounded : s.params.decBufCap ≠ none ∨ s.params.encOutCap ≠ none)
      (eq_faulted : t = { s with faulted := true })

section
variable {i : Instr} {s t : State}

theorem ExecEffect.of_consumeByte {c : ByteClass} {b : Byte} (writer : Delivers i b ∨ i = .wireOther b)
    (own_class : Delivers i b → c = classify b) (h : consumeByte c b s = .next t) : ExecEffect i s t := by
  obtain ⟨st, hst, ⟨hoverflow, -, hfull⟩ | ⟨hrespond, hfits⟩⟩ := consumeByte_next h
  · exact .overflowed (.inl (cap_ne_none_of_exceeds hfull)) hoverflow
  · exact .delivered c b writer own_class st hst (fun hgrows => exceeds_decBufCap_eq_false_iff.1 (hfits hgrows)) _ hrespond

theorem ExecEffect.of_delivers {b : Byte} (hdelivers : Delivers i b) (h : exec i s = .next t) : ExecEffect i s t :=
  .of_consumeByte (.inl hdelivers) (fun _ => rfl) ((exec_of_delivers hdelivers s).symm.trans h)

theorem ExecEffect.of_encAdd {b : Byte} (h : exec (.encAdd b) s = .next t) : ExecEffect (.encAdd b) s t := by
  by_cases hfits : EncFits s (encOutAfter s.encOut b)
  · rw [exec_encAdd_of_fits hfits] at h
    exact .encAdded b rfl hfits _ (Host.Outcome.next.inj h).symm
  · rw [exec_encAdd_of_not_fits hfits] at h
    exact .overflowed (.inr (cap_ne_none_of_exceeds (exceeds_encOutCap_eq_true_iff.2 hfits))) (overflow_next_iff.1 h)

theorem ExecEffect.of_encFrame (h : exec .encFrame s = .next t) : ExecEffect .encFrame s t := by
  by_cases hfits : EncFits s (closedFrame s.encOut s.encCk)
  · rw [exec_encFrame_of_fits hfits] at h
    exact .encFramed rfl _ (Host.Outcome.next.inj h).symm
  · rw [exec_encFrame_of_not_fits hfits] at h
    exact .overflowed (.inr (cap_ne_none_of_exceeds (exceeds_encOutCap_eq_true_iff.2 hfits))) (overflow_next_iff.1 h)

theorem ExecEffect.of_msgDispatch (h : exec .msgDispatch s = .next t) : ExecEffect .msgDispatch s t := by
  change execMsgDispatch s = _ at h
  unfold execMsgDispatch at h
  split at h
  · cases h
  · exact .read _ (complete_next_iff.1 h)
  · exact .read _ (complete_next_iff.1 h)

/-- Every instruction has one of the effects: a case per row of the opcode table. -/
theorem exec_effect (h : exec i s = .next t) : ExecEffect i s t := by
  cases i with
  | ckInit => exact .checksum (.inl rfl) _ _ (complete_next_iff.1 h)
  | ckAdd b => exact .checksum (.inr ⟨b, rfl⟩) _ _ (complete_next_iff.1 h)
  | ckRead | decFrame | msgDecode => exact .read _ (complete_next_iff.1 h)
  | encAdd b => exact .of_encAdd h
  | encFrame => exact .of_encFrame h
  | decReset => exact .decReset rfl _ (complete_next_iff.1 h)
  | msgEncNodata | msgEncSel | msgEncAuth => exact .read _ (Host.Outcome.next.inj h).symm
  | msgDispatch => exact .of_msgDispatch h
  | decAdd b => exact .of_delivers (.inl rfl) h
  | wireStart => exact .of_delivers (.inr (.inl ⟨rfl, rfl⟩)) h
  | wireEnd => exact .of_delivers (.inr (.inr (.inl ⟨rfl, rfl⟩))) h
  | wireEscapedStart => exact .of_delivers (.inr (.inr (.inr (.inl ⟨rfl, rfl⟩)))) h
  | wireOther b =>
    refine .of_consumeByte (.inr rfl) (fun hdelivers => ?_) h
    obtain h | ⟨h, -⟩ | ⟨h, -⟩ | ⟨h, -⟩ | ⟨-, hstart, hend, hescaped⟩ := hdelivers
    case inr.inr.inr.inr => exact (classify_of_ne_markers hstart hend hescaped).symm
    all_goals cases h

/-! ### What an instruction leaves unchanged -/

theorem ExecEffect.params_eq (h : ExecEffect i s t) : t.params = s.params := by
  cases h with
  | read _ heq | checksum _ _ _ heq | encAdded _ _ _ _ heq | encFramed _ _ heq | decReset _ _ heq
  | delivered _ _ _ _ _ _ _ _ heq | overflowed _ heq => subst heq; rfl

theorem ExecEffect.faulted_eq (h : ExecEffect i s t) (hdec : s.params.decBufCap = none)
    (henc : s.params.encOutCap = none) : t.faulted = s.faulted := by
  cases h with
  | read _ heq | checksum _ _ _ heq | encAdded _ _ _ _ heq | encFramed _ _ heq | decReset _ _ heq
  | delivered _ _ _ _ _ _ _ _ heq => subst heq; rfl
  | overflowed bounded => exact absurd bounded (by simp [hdec, henc])

theorem ExecEffect.ck_eq (h : ExecEffect i s t) (hinit : i ≠ .ckInit) (hadd : ∀ b, i ≠ .ckAdd b) : t.ck = s.ck := by
  cases h with
  | checksum writer =>
    obtain rfl | ⟨b, rfl⟩ := writer
    · exact absurd rfl hinit
    · exact absurd rfl (hadd b)
  | read _ heq | encAdded _ _ _ _ heq | encFramed _ _ heq | decReset _ _ heq
  | delivered _ _ _ _ _ _ _ _ heq | overflowed _ heq => subst heq; rfl

theorem ExecEffect.encoder_eq (h : ExecEffect i s t) (hframe : i ≠ .encFrame) (hadd : ∀ b, i ≠ .encAdd b) :
    t.encCk = s.encCk ∧ t.encOut = s.encOut := by
  cases h with
  | encAdded b writer => exact absurd writer (hadd b)
  | encFramed writer => exact absurd writer hframe
  | read _ heq | checksum _ _ _ heq | decReset _ _ heq
  | delivered _ _ _ _ _ _ _ _ heq | overflowed _ heq => rw [heq]; exact ⟨rfl, rfl⟩

theorem ExecEffect.decoder_eq (h : ExecEffect i s t) (hreset : i ≠ .decReset) (hdelivers : ∀ b, ¬ Delivers i b)
    (hother : ∀ b, i ≠ .wireOther b) : t.decState = s.decState ∧ t.decBuf = s.decBuf := by
  cases h with
  | decReset writer => exact absurd writer hreset
  | delivered c b writer => exact (writer.elim (hdelivers b) (hother b)).elim
  | read _ heq | checksum _ _ _ heq | encAdded _ _ _ _ heq | encFramed _ _ heq
  | overflowed _ heq => rw [heq]; exact ⟨rfl, rfl⟩

end

/-- Settles O50: the effect of an instruction writes one part of the tuple, and only for the operations R20 names. -/
theorem onlyTheNamedOperationsWrite : Obligations.OnlyTheNamedOperationsWrite := by
  unfold Obligations.OnlyTheNamedOperationsWrite
  intro i s t h
  have heffect := exec_effect h
  refine ⟨heffect.params_eq, heffect.ck_eq, heffect.encoder_eq, fun hreset hadd hstart hend hescaped hother => ?_⟩
  refine heffect.decoder_eq hreset (fun b hdelivers => ?_) hother
  obtain h | ⟨h, -⟩ | ⟨h, -⟩ | ⟨h, -⟩ | ⟨h, -⟩ := hdelivers
  · exact hadd b h
  · exact hstart h
  · exact hend h
  · exact hescaped h
  · exact hother b h

/-- Settles O51: a reset keeps the configuration by its definition, an instruction by its effect. -/
theorem configurationNeverChanges : Obligations.ConfigurationNeverChanges := by
  unfold Obligations.ConfigurationNeverChanges
  intro s t hstep
  obtain ⟨rest, -, rfl⟩ | ⟨p, rest, i, -, -, -, hexec⟩ | ⟨p, rest, e, -, -, -, rfl⟩ | ⟨-, -, rfl⟩ := step_next hstep
  · rfl
  · exact (exec_effect hexec).params_eq
  · rfl
  · rfl

/-- Settles O30: the three appends by O31; a faulted block takes no step but at a reset event (log 7, log 10); and an
effect without capacities is no overflow. -/
theorem overflowFaultsUntilReset : Obligations.OverflowFaultsUntilReset := by
  unfold Obligations.OverflowFaultsUntilReset
  obtain ⟨hencAdd, hencFrame, hdelivered⟩ := overflowChangesNothingElse
  refine ⟨fun b s hfull => ⟨_, hencAdd b s hfull, rfl⟩, fun s hfull => ⟨_, hencFrame s hfull, rfl⟩,
    fun b s hfull => ⟨_, hdelivered _ b s (.inl rfl) hfull, rfl⟩, fun s p rest hfaulted hpending => ?request,
    fun s t hfaulted hstep => ?onlyReset, fun i s t hdec henc h => (exec_effect h).faulted_eq hdec henc⟩
  case request => simp only [step, hpending, hfaulted, if_true]
  case onlyReset =>
    obtain ⟨rest, hpending, rfl⟩ | ⟨p, rest, i, -, hlive, -⟩ | ⟨p, rest, e, -, hlive, -⟩ | ⟨-, hlive, -⟩ :=
      step_next hstep
    · exact ⟨rfl, rest, hpending⟩
    all_goals exact absurd (hfaulted.symm.trans hlive) (by decide)

/-! ### The invariant: the decoder -/

/-- The states in which `DEC_BUF` holds bytes (R27). -/
def DecState.filled : DecState → Bool
  | .s0 | .s1 | .s2 => false
  | .s3 | .s4 | .s5 => true

theorem DecState.code_le_two_iff (st : DecState) : st.code.toNat ≤ 2 ↔ st.filled = false := by
  cases st <;> decide

theorem DecState.three_le_code_iff (st : DecState) : 3 ≤ st.code.toNat ↔ st.filled = true := by
  cases st <;> decide

/-- R27 and R144 for a decoder as a value. -/
def Decoder.Sound (d : Decoder) : Prop :=
  (d.st.filled = false → d.buf = []) ∧ (d.st.filled = true → d.buf ≠ []) ∧ d.buf.head? ≠ some 0xFE#8

/-- The block's decoder is in the state of `d`, with its buffer. -/
structure State.Holds (s : State) (d : Decoder) : Prop where
  state_eq : s.decState = d.st.code
  buf_eq : s.decBuf = d.buf

theorem decoderSound_iff {s : State} {d : Decoder} (h : s.Holds d) : DecoderSound s ↔ d.Sound := by
  rw [DecoderSound, Decoder.Sound, h.state_eq, h.buf_eq, DecState.code_le_two_iff, DecState.three_le_code_iff]
  exact and_iff_right d.st.code_toNat_le

/-- A sound block holds a decoder: its code is one of the six (R25). -/
theorem exists_holds_of_decoderSound {s : State} (h : DecoderSound s) : ∃ d, s.Holds d ∧ d.Sound := by
  cases hst : decStateOf s.decState with
  | none =>
    have hcode : s.decState.toNat ≤ 5 := h.1
    obtain heq | heq := decStateOf_eq_none.1 hst
    · exact absurd (heq ▸ hcode) (by decide)
    · exact absurd (heq ▸ hcode) (by decide)
  | some st =>
    have hholds : s.Holds { st := st, buf := s.decBuf } := ⟨decStateOf_eq_some.1 hst, rfl⟩
    exact ⟨_, hholds, (decoderSound_iff hholds).1 h⟩

theorem Decoder.sound_of_empty {st : DecState} (hst : st.filled = false) : Decoder.Sound { st := st, buf := [] } :=
  ⟨fun _ => rfl, fun h => absurd (h.symm.trans hst) (by decide), by simp⟩

theorem Decoder.sound_of_filled {st : DecState} {buf : List Byte} (hst : st.filled = true) (hne : buf ≠ [])
    (hhead : buf.head? ≠ some 0xFE#8) : Decoder.Sound { st := st, buf := buf } :=
  ⟨fun h => absurd (h.symm.trans hst) (by decide), fun _ => hne, hhead⟩

/-- A byte after the first does not change the first (R144). -/
theorem Decoder.sound_of_append {st : DecState} {buf : List Byte} (hst : st.filled = true) (hne : buf ≠ [])
    (hhead : buf.head? ≠ some 0xFE#8) (b : Byte) : Decoder.Sound { st := st, buf := buf ++ [b] } :=
  Decoder.sound_of_filled hst (by simp) (by rwa [List.head?_append_of_ne_nil _ hne])

/-- `decstep` in terms of the class of its byte. -/
theorem decstep_of_classify {d : Decoder} {b : Byte} {c : ByteClass} (h : classify b = c) :
    decstep d b = ({ st := (decTable d.st c).1, buf := (decTable d.st c).2.apply b d.buf }, doneBit d.st c) := by
  rw [decstep, h]

/-- Outside S4 the bytes other than `0xFE` go by the column OTHER, and complete no frame. -/
theorem decstep_of_ne_start {d : Decoder} {b : Byte} (hst : d.st ≠ .s4) (hb : b ≠ startByte) :
    decstep d b = ({ st := (decTable d.st .other).1, buf := (decTable d.st .other).2.apply b d.buf }, false) := by
  rw [decstep, decTable_eq_other_column hst (classify_ne_start hb), doneBit_of_ne_s4 hst]

/-- Every cell of the table keeps R27 and R144: the buffer is emptied or stays empty, or it stays or grows behind its
first byte, and the first byte comes in S2, which `0xFE` does not leave. -/
theorem decstep_sound {d : Decoder} (h : d.Sound) (b : Byte) : (decstep d b).1.Sound := by
  obtain ⟨st, buf⟩ := d
  obtain ⟨hempty, hfilled, hhead⟩ := h
  cases st with
  | s0 | s1 =>
    obtain rfl : buf = [] := hempty rfl
    unfold decstep
    cases classify b <;> exact Decoder.sound_of_empty rfl
  | s2 =>
    obtain rfl : buf = [] := hempty rfl
    by_cases hb : b = startByte
    · rw [decstep_of_classify (classify_of_eq_startByte hb)]
      exact Decoder.sound_of_empty rfl
    · rw [decstep_of_ne_start (by simp) hb]
      exact Decoder.sound_of_filled rfl (List.cons_ne_nil b []) fun hfirst => hb (Option.some.inj hfirst)
  | s3 =>
    by_cases hb : b = startByte
    · rw [decstep_of_classify (classify_of_eq_startByte hb)]
      exact Decoder.sound_of_filled rfl (hfilled rfl) hhead
    · rw [decstep_of_ne_start (by simp) hb]
      exact Decoder.sound_of_append rfl (hfilled rfl) hhead b
  | s4 =>
    unfold decstep
    cases classify b with
    | start | other => exact Decoder.sound_of_empty rfl
    | endMark => exact Decoder.sound_of_filled rfl (hfilled rfl) hhead
    | escaped => exact Decoder.sound_of_append rfl (hfilled rfl) hhead startByte
  | s5 =>
    unfold decstep
    cases classify b <;> exact Decoder.sound_of_empty rfl

/-! ### The invariant: the encoder -/

/-- ENC_ADD of `b` after the payload `p` is what `p ++ [b]` puts there. -/
theorem encoderSound_of_encAdd {s t : State} (h : EncoderSound s) {b : Byte}
    (hout : t.encOut = encOutAfter s.encOut b) (hck : t.encCk = ckstep s.encCk b) : EncoderSound t := by
  have hesc : (if b = 0xFE#8 then [0xFE#8, 0xF0#8] else [b]) = esc b := rfl
  rw [encOutAfter, hesc] at hout
  obtain ⟨hempty, hseed⟩ | ⟨p, hp, hout', hck'⟩ := h
  · refine .inr ⟨[b], by simp, ?_, ?_⟩
    · simpa [hempty] using hout
    · rw [hck, hseed, ckfold_cons, ckfold_nil]
  · refine .inr ⟨p ++ [b], by simp, ?_, ?_⟩
    · simpa [hout'] using hout
    · rw [hck, hck', ckfold_append, ckfold_cons, ckfold_nil]

/-! ### The invariant along a step -/

section
variable {i : Instr} {s t : State}

theorem ExecEffect.encoderSound (h : ExecEffect i s t) (hs : EncoderSound s) : EncoderSound t := by
  cases h with
  | encAdded b _ _ r heq => rw [heq]; exact encoderSound_of_encAdd hs rfl rfl
  | encFramed _ r heq => rw [heq]; exact .inl ⟨rfl, rfl⟩
  | read _ heq | checksum _ _ _ heq | decReset _ _ heq
  | delivered _ _ _ _ _ _ _ _ heq | overflowed _ heq => rw [heq]; exact hs

/-- The decoder of a byte that the instruction delivers makes `decstep`. -/
theorem ExecEffect.decoderSound (h : ExecEffect i s t) (hwf : WellFormed i) (hs : DecoderSound s) :
    DecoderSound t := by
  cases h with
  | decReset _ r heq => rw [heq]; exact (decoderSound_iff (d := freshDecoder) ⟨rfl, rfl⟩).2 (Decoder.sound_of_empty rfl)
  | delivered c b writer own_class st hst _ r heq =>
    have hdelivers : Delivers i b := by
      obtain hdelivers | rfl := writer
      · exact hdelivers
      · exact delivers_of_wellFormed hwf
    obtain rfl := own_class hdelivers
    have hsound : Decoder.Sound { st := st, buf := s.decBuf } := (decoderSound_iff ⟨hst, rfl⟩).1 hs
    rw [heq]
    exact (decoderSound_iff ⟨rfl, rfl⟩).2 (decstep_sound hsound b)
  | read _ heq | checksum _ _ _ heq | encAdded _ _ _ _ heq | encFramed _ _ heq
  | overflowed _ heq => rw [heq]; exact hs

theorem ExecEffect.capacitySound (h : ExecEffect i s t) (hs : CapacitySound s) : CapacitySound t := by
  obtain ⟨hdec, henc, hfault⟩ := hs
  cases h with
  | read _ heq | checksum _ _ _ heq => rw [heq]; exact ⟨hdec, henc, hfault⟩
  | encAdded b _ fits r heq => rw [heq]; exact ⟨hdec, fits, hfault⟩
  | encFramed _ r heq => rw [heq]; exact ⟨hdec, fun n _ => Nat.zero_le n, hfault⟩
  | decReset _ r heq => rw [heq]; exact ⟨fun n _ => Nat.zero_le n, henc, hfault⟩
  | delivered c b _ _ st _ fits r heq =>
    rw [heq]
    refine ⟨?_, henc, hfault⟩
    change DecFits s ((decTable st c).2.apply b s.decBuf)
    cases hgrows : (decTable st c).2.grows with
    | true => exact fits hgrows
    | false =>
      obtain hkeep | hclear := BufAction.apply_of_not_grows hgrows b s.decBuf
      · rw [hkeep]; exact hdec
      · rw [hclear]; exact fun n _ => Nat.zero_le n
  | overflowed bounded heq => rw [heq]; exact ⟨hdec, henc, fun _ => bounded⟩

theorem Sound.exec (hs : Sound s) (hwf : WellFormed i) (h : exec i s = .next t) : Sound t where
  encoder := (exec_effect h).encoderSound hs.encoder
  decoder := (exec_effect h).decoderSound hwf hs.decoder
  capacity := (exec_effect h).capacitySound hs.capacity

end

/-- The invariant speaks of registers, buffers, capacities and fault, not of the two sides of the port. -/
theorem Sound.consume {s : State} (h : Sound s) (rest : List Event) : Sound (s.consume rest) :=
  ⟨h.encoder, h.decoder, h.capacity⟩

theorem Sound.respond {s : State} (h : Sound s) (r : Response) : Sound (s.respond r) :=
  ⟨h.encoder, h.decoder, h.capacity⟩

theorem Sound.of_reset_values {s : State} (hck : s.encCk = seed) (hout : s.encOut = []) (hst : s.decState = 0)
    (hbuf : s.decBuf = []) (hlive : s.faulted = false) : Sound s where
  encoder := .inl ⟨hout, hck⟩
  decoder := (decoderSound_iff (d := freshDecoder) ⟨hst, hbuf⟩).2 (Decoder.sound_of_empty rfl)
  capacity := ⟨fun n _ => by simp [hbuf], fun n _ => by simp [hout], fun hfaulted => by simp [hlive] at hfaulted⟩

/-- Settles O52: a reset has the reset values; what the port accepts is well formed, and each effect of a well-formed
instruction keeps the three parts of the invariant; the other steps touch none of them. -/
theorem everyStepKeepsSound : Obligations.EveryStepKeepsSound := by
  unfold Obligations.EveryStepKeepsSound
  intro s t hs hstep
  obtain ⟨rest, -, rfl⟩ | ⟨p, rest, i, -, -, haccept, hexec⟩ | ⟨p, rest, e, -, -, -, rfl⟩ | ⟨-, -, rfl⟩ := step_next hstep
  · exact .of_reset_values rfl rfl rfl rfl rfl
  · exact (hs.consume rest).exec (wellFormed_of_decode (decode_of_accept haccept)) hexec
  · exact (hs.consume rest).respond _
  · exact hs

/-- Settles O53: the reset values are an empty encoder with the seed and an empty decoder in S0. -/
theorem resetIsSound : Obligations.ResetIsSound := by
  unfold Obligations.ResetIsSound
  exact .of_reset_values rfl rfl rfl rfl rfl

end Sys2Proof.Machine
end

section
/-! The checksum step as a complemented rotation (R101), and which pairs of states it does not tell apart (R107). -/

namespace Sys2Proof.Machine

open Sys2Proof

/-- The second-step value `w2` of R100, before the high byte and the byte are added. -/
def secondStep (v : U16) : Nat := ((v.toNat * 2 + v.toNat / 32768) ^^^ 0xFFFF) % 65536

theorem ckstep_toNat (v : U16) (b : Byte) :
    (ckstep v b).toNat = (secondStep v + secondStep v / 256 + b.toNat) % 65536 :=
  ckstepInThreeSteps v b

/-- Flipping sixteen bits is subtracting from `0xFFFF`. -/
theorem xor_allOnes_mod (n : Nat) : (n ^^^ 0xFFFF) % 65536 = 65535 - n % 65536 := by
  have hflip : (BitVec.ofNat 16 n ^^^ 0xFFFF#16).toNat = (n % 65536) ^^^ 0xFFFF := by
    rw [BitVec.toNat_xor, BitVec.toNat_ofNat, BitVec.toNat_ofNat]
  have hnot : BitVec.ofNat 16 n ^^^ 0xFFFF#16 = ~~~ BitVec.ofNat 16 n := BitVec.xor_allOnes
  rw [show (65536 : Nat) = 2 ^ 16 from rfl, Nat.xor_mod_two_pow]
  rw [hnot, BitVec.toNat_not, BitVec.toNat_ofNat] at hflip
  exact hflip.symm

theorem secondStep_eq (v : U16) : secondStep v = 65535 - (v.toNat * 2 + v.toNat / 32768) % 65536 :=
  xor_allOnes_mod _

/-- The left rotation by one brings the top bit round to the bottom. -/
theorem rotateLeft_toNat (v : U16) :
    (v.extractLsb' 0 15 ++ v.extractLsb' 15 1).toNat = (v.toNat * 2 + v.toNat / 32768) % 65536 := by
  have hv : v.toNat < 65536 := v.isLt
  have htop : v.toNat / 32768 = 0 ∨ v.toNat / 32768 = 1 := by omega
  rw [BitVec.toNat_append, ← Nat.shiftLeft_add_eq_or_of_lt (v.extractLsb' 15 1).isLt, Nat.shiftLeft_eq, BitVec.extractLsb'_toNat,
    BitVec.extractLsb'_toNat, Nat.shiftRight_zero, Nat.shiftRight_eq_div_pow]
  omega

/-- Settles O11: the first two steps are the complemented rotation, and the last is the sum. -/
theorem ckstepIsComplementedRotation : Obligations.CkstepIsComplementedRotation := by
  unfold Obligations.CkstepIsComplementedRotation
  intro v b r
  have hr : r.toNat = secondStep v := by
    have hxor : r.toNat = ((v.toNat * 2 + v.toNat / 32768) % 65536) ^^^ 0xFFFF := by
      rw [BitVec.toNat_xor, rotateLeft_toNat]; rfl
    rw [hxor, secondStep, show (65536 : Nat) = 2 ^ 16 from rfl, Nat.xor_mod_two_pow]
  have hhi : ((r.extractLsb' 8 8).setWidth 16).toNat = r.toNat / 256 := by
    rw [BitVec.toNat_setWidth, BitVec.extractLsb'_toNat, Nat.shiftRight_eq_div_pow]
    omega
  have hb : (b.setWidth 16).toNat = b.toNat := BitVec.toNat_setWidth_of_le (by decide)
  apply BitVec.eq_of_toNat_eq
  rw [ckstep_toNat, ← hr, BitVec.toNat_add, BitVec.toNat_add, hhi, hb, Nat.mod_add_mod]

theorem secondStep_lt (v : U16) : secondStep v < 65536 := Nat.mod_lt _ (by decide)

/-- The rotation can be undone. -/
theorem toNat_eq_of_rotateLeft {n m : Nat} (hn : n < 65536) (hm : m = (n * 2 + n / 32768) % 65536) :
    n = m / 2 + m % 2 * 32768 := by
  have htop : n / 32768 = 0 ∨ n / 32768 = 1 := by omega
  omega

/-- The first two steps are a bijection on the states. -/
theorem secondStep_injective : Function.Injective secondStep := by
  intro v w h
  rw [secondStep_eq, secondStep_eq] at h
  have hrotate : (v.toNat * 2 + v.toNat / 32768) % 65536 = (w.toNat * 2 + w.toNat / 32768) % 65536 := by omega
  refine BitVec.eq_of_toNat_eq ?_
  rw [toNat_eq_of_rotateLeft v.isLt rfl, hrotate, ← toNat_eq_of_rotateLeft w.isLt rfl]

/-- Two sums of the last step that agree modulo 2^16 are 2^16 apart, which leaves only one pair of high bytes: 255 in the
greater value and 0 in the smaller. -/
theorem eq_add_of_sum_eq {x y b : Nat} (hlt : x < y) (hy : y < 65536)
    (hsum : (x + x / 256 + b) % 65536 = (y + y / 256 + b) % 65536) : x ≤ 0xFE ∧ y = x + 0xFF01 := by
  have hmod : (x + x / 256) % 65536 = (y + y / 256) % 65536 := Nat.ModEq.add_right_cancel' b hsum
  have hmono : x / 256 ≤ y / 256 := Nat.div_le_div_right hlt.le
  have hapart : y + y / 256 = x + x / 256 + 65536 := by omega
  have hcarry : y / 256 = 255 := by omega
  omega

theorem sum_collides_iff {x y b : Nat} (hx : x < 65536) (hy : y < 65536) :
    (x ≠ y ∧ (x + x / 256 + b) % 65536 = (y + y / 256 + b) % 65536) ↔
      ∃ k, k ≤ 0xFE ∧ ((x = k ∧ y = k + 0xFF01) ∨ (y = k ∧ x = k + 0xFF01)) := by
  constructor
  · rintro ⟨hne, hsum⟩
    obtain hlt | hlt := Nat.lt_or_gt_of_ne hne
    · obtain ⟨hk, heq⟩ := eq_add_of_sum_eq hlt hy hsum
      exact ⟨x, hk, .inl ⟨rfl, heq⟩⟩
    · obtain ⟨hk, heq⟩ := eq_add_of_sum_eq hlt hx hsum.symm
      exact ⟨y, hk, .inr ⟨rfl, heq⟩⟩
  · rintro ⟨k, hk, hpair⟩
    have hlow : k / 256 = 0 := by omega
    have hhigh : (k + 0xFF01) / 256 = 255 := by omega
    obtain ⟨rfl, rfl⟩ | ⟨rfl, rfl⟩ := hpair
    · exact ⟨by omega, by omega⟩
    · exact ⟨by omega, by omega⟩

/-- Settles O12: the states collide when the sums of their second-step values do; in the byte the step is a translation. -/
theorem ckstepCollisions : Obligations.CkstepCollisions := by
  unfold Obligations.CkstepCollisions
  refine ⟨fun v w b => ?states, fun v b c h => ?byte⟩
  case states =>
    change (v ≠ w ∧ ckstep v b = ckstep w b) ↔ ∃ k, k ≤ 0xFE ∧
      ((secondStep v = k ∧ secondStep w = k + 0xFF01) ∨ (secondStep w = k ∧ secondStep v = k + 0xFF01))
    rw [← secondStep_injective.ne_iff (x := v), ← BitVec.toNat_inj, ckstep_toNat, ckstep_toNat]
    exact sum_collides_iff (secondStep_lt v) (secondStep_lt w)
  case byte =>
    have hsum := congrArg BitVec.toNat h
    rw [ckstep_toNat, ckstep_toNat] at hsum
    exact BitVec.eq_of_toNat_eq (by omega)

end Sys2Proof.Machine
end

section
/-! Runs of requests (R284): what one packet does to a live block, and a run as its packets one after the other. -/

namespace Sys2Proof.Machine

open Sys2Proof

/-! ### One packet -/

theorem performOne_of_decodeRequest {w : BitVec 12} {i : Instr} (h : decodeRequest { word := w } = .ok i) (s : State) :
    performOne (.request { word := w }) s = exec i s := by
  simp only [performOne, accept_bare, h]

theorem performOne_ckAdd (b : Byte) (s : State) : performOne (encode (.ckAdd b)) s = exec (.ckAdd b) s :=
  performOne_of_decodeRequest (decodeRequest_ckAdd b) s

theorem performOne_encAdd (b : Byte) (s : State) : performOne (encode (.encAdd b)) s = exec (.encAdd b) s :=
  performOne_of_decodeRequest (decodeRequest_encAdd b) s

theorem performOne_encFrame (s : State) : performOne (encode .encFrame) s = exec .encFrame s :=
  performOne_of_decodeRequest decodeRequest_encFrame s

theorem performOne_decAdd (b : Byte) (s : State) : performOne (encode (.decAdd b)) s = exec (.decAdd b) s :=
  performOne_of_decodeRequest (decodeRequest_decAdd b) s

/-- A packet keeps the configuration, and unbounded buffers the fault too: a block that is ready stays ready. -/
theorem Ready.performOne {p : Packet} {s t : State} (hs : Ready s) (h : performOne p s = .next t) : Ready t := by
  have hpending : t.pending = s.pending := performOne_pending h
  have hframe : t.params = s.params ∧ t.faulted = s.faulted := by
    unfold Machine.performOne at h
    split at h
    · exact ⟨(exec_effect h).params_eq, (exec_effect h).faulted_eq hs.decUnbounded hs.encUnbounded⟩
    · obtain rfl := Host.Outcome.next.inj h
      exact ⟨rfl, rfl⟩
  obtain ⟨hparams, hfaulted⟩ := hframe
  exact ⟨hpending.trans hs.idle, hfaulted.trans hs.live, hparams ▸ hs.decUnbounded, hparams ▸ hs.encUnbounded⟩

/-! ### Runs -/

/-- The outcome of going on from a next state. -/
def andThen (o : Host.Outcome State Fault Refusal) (f : State → Host.Outcome State Fault Refusal) :
    Host.Outcome State Fault Refusal :=
  match o with
  | .next t => f t
  | .fault r => .fault r
  | .refused r => .refused r

theorem andThen_eq_next {o : Host.Outcome State Fault Refusal} {f : State → Host.Outcome State Fault Refusal} {t : State} :
    andThen o f = .next t ↔ ∃ u, o = .next u ∧ f u = .next t := by
  cases o <;> simp [andThen]

/-- The step that takes the first request of a program off the port. -/
theorem step_load_cons {p : Packet} {ps : List Packet} {s : State} (hidle : s.pending = []) (hlive : s.faulted = false) :
    step (s.load (p :: ps)) = withPending (ps.map .packet) (performOne p s) := by
  have hpending : (s.load (p :: ps)).pending = .packet p :: ps.map .packet := by simp [hidle]
  cases haccept : accept s.params.seqCap p with
  | ok i =>
    have hone : performOne p s = exec i s := by simp only [performOne, haccept]
    rw [hone, step_of_accept_ok hpending hlive haccept]
    exact exec_withPending i s (ps.map .packet)
  | error e =>
    have hone : performOne p s = fails .illegalOp s := by simp only [performOne, haccept]
    rw [hone, step_of_accept_error hpending hlive haccept]
    rfl

/-- A run is what its first packet does and the run of the others, whether the packet stops the machine or not. -/
theorem perform_cons_eq {p : Packet} {ps : List Packet} {s : State} (hidle : s.pending = []) (hlive : s.faulted = false) :
    perform (p :: ps) s = andThen (performOne p s) (perform ps) := by
  cases hone : performOne p s with
  | next t => exact perform_cons hidle hlive hone
  | fault _ | refused _ =>
    have hstop : Sys2Proof.core.step (s.load (p :: ps)) = withPending (ps.map .packet) (performOne p s) :=
      step_load_cons hidle hlive
    rw [hone] at hstop
    simp only [perform, List.length_cons, Host.Core.run, hstop, withPending]
    rfl

theorem Ready.perform {ps : List Packet} {s t : State} (hs : Ready s) (h : perform ps s = .next t) : Ready t := by
  induction ps generalizing s with
  | nil =>
    rw [perform_nil s hs.idle] at h
    exact Host.Outcome.next.inj h ▸ hs
  | cons p ps ih =>
    rw [perform_cons_eq hs.idle hs.live, andThen_eq_next] at h
    obtain ⟨u, hone, hrest⟩ := h
    exact ih (hs.performOne hone) hrest

/-- A run over two programs goes on with the second where the first ended. -/
theorem perform_append {ps qs : List Packet} {s t : State} (hs : Ready s) (h : perform ps s = .next t) :
    perform (ps ++ qs) s = perform qs t := by
  induction ps generalizing s with
  | nil =>
    rw [perform_nil s hs.idle] at h
    rw [List.nil_append, Host.Outcome.next.inj h]
  | cons p ps ih =>
    rw [perform_cons_eq hs.idle hs.live, andThen_eq_next] at h
    obtain ⟨u, hone, hrest⟩ := h
    rw [List.cons_append, perform_cons hs.idle hs.live hone]
    exact ih (hs.performOne hone) hrest

theorem perform_singleton {p : Packet} {s t : State} (hs : Ready s) (h : performOne p s = .next t) :
    perform [p] s = .next t := by
  rw [perform_cons hs.idle hs.live h, perform_nil t (hs.performOne h).idle]

/-- Requests one for each byte, each of which does `f`, do `f` for each byte in order. -/
theorem perform_map_eq_foldl {mk : Byte → Packet} {f : State → Byte → State}
    (hone : ∀ s b, Ready s → performOne (mk b) s = .next (f s b)) {s : State} (hs : Ready s) (bs : List Byte) :
    perform (bs.map mk) s = .next (bs.foldl f s) := by
  induction bs generalizing s with
  | nil => exact perform_nil s hs.idle
  | cons b bs ih =>
    rw [List.map_cons, perform_cons hs.idle hs.live (hone s b hs)]
    exact ih (hs.performOne (hone s b hs))

/-- The response of an operation that completes without a value. -/
def plainResponse : Response := { status := .ok, value := none }

/-! ### `CK_ADDS` -/

/-- The state after CK_ADD of `b`. -/
def afterCkAdd (s : State) (b : Byte) : State := State.respond { s with ck := ckstep s.ck b } plainResponse

theorem foldl_afterCkAdd (s : State) (bs : List Byte) :
    bs.foldl afterCkAdd s =
      { s with ck := ckfold s.ck bs, responses := s.responses ++ List.replicate bs.length plainResponse } := by
  induction bs generalizing s with
  | nil => simp
  | cons b bs ih => simp [ih, afterCkAdd, State.respond, List.replicate_succ]

/-- Settles O13: each CK_ADD of the run steps the checksum and answers, and `ckfold` is those steps in order. -/
theorem ckAddsFoldInOrder : Obligations.CkAddsFoldInOrder := by
  unfold Obligations.CkAddsFoldInOrder
  intro s bs hs
  have hone (u : State) (b : Byte) (_ : Ready u) : performOne (encode (.ckAdd b)) u = .next (afterCkAdd u b) :=
    performOne_ckAdd b u
  exact (perform_map_eq_foldl hone hs bs).trans (congrArg _ (foldl_afterCkAdd s bs))

end Sys2Proof.Machine
end

section
/-! The encoder of `frameOf` and the wire frame of a payload (R70, R72, R123), and encoding a message along a run (R124). -/

namespace Sys2Proof.Machine

open Sys2Proof

/-! ### The frame of a payload -/

/-- After its first byte an encoder only appends the escaped bytes. -/
theorem foldl_encPush_of_started {e : Encoder} (he : e.out ≠ []) (p : List Byte) :
    p.foldl encPush e = { out := e.out ++ p.flatMap esc, ck := ckfold e.ck p } := by
  induction p generalizing e with
  | nil => simp
  | cons b q ih =>
    rw [List.foldl_cons, ih (encPush_out_ne_nil e b), encPush_out, if_neg he, encPush_ck, List.flatMap_cons,
      List.append_assoc, ckfold_cons]

/-- A fresh encoder puts the start pair in front of the first byte (R24). -/
theorem foldl_encPush_fresh {p : List Byte} (hp : p ≠ []) :
    p.foldl encPush freshEncoder = { out := [startByte, startByte] ++ p.flatMap esc, ck := ckfold seed p } := by
  cases p with
  | nil => exact absurd rfl hp
  | cons b q =>
    rw [List.foldl_cons, foldl_encPush_of_started (encPush_out_ne_nil _ b), encPush_out, encPush_ck, List.flatMap_cons,
      ckfold_cons, freshEncoder, if_pos rfl, List.append_assoc]

/-- Settles O17: what a fresh encoder holds after the payload, closed with its checksum and the terminator. -/
theorem frameOfIsWireFrame : Obligations.FrameOfIsWireFrame := by
  unfold Obligations.FrameOfIsWireFrame
  intro p hp
  rw [← wireFrame_eq_frameOnWire, frameOf, foldl_encPush_fresh hp]
  rfl

theorem one_le_esc_length (b : Byte) : 1 ≤ (esc b).length := List.length_pos_of_ne_nil (esc_ne_nil b)

theorem length_le_flatMap_esc (p : List Byte) : p.length ≤ (p.flatMap esc).length := by
  induction p with
  | nil => exact Nat.le_refl 0
  | cons b q ih =>
    have hb := one_le_esc_length b
    rw [List.flatMap_cons, List.length_append, List.length_cons]
    omega

/-- Settles O18: the start pair, a byte or more of payload, two checksum bytes or more, the terminator. -/
theorem shortestFrameIsSevenBytes : Obligations.ShortestFrameIsSevenBytes := by
  unfold Obligations.ShortestFrameIsSevenBytes
  refine ⟨fun p hp => ?_, by decide⟩
  have hpayload : 1 ≤ p.length := List.length_pos_of_ne_nil hp
  have hescaped := length_le_flatMap_esc p
  have hhi := one_le_esc_length (hiByte (ckfold seed p))
  have hlo := one_le_esc_length (loByte (ckfold seed p))
  rw [frameOfIsWireFrame p hp, ← wireFrame_eq_frameOnWire]
  simp only [wireFrame, checksumBytes, List.length_append, List.length_cons, List.length_nil]
  omega

/-! ### `ENC_ADDS`, ENC_FRAME -/

theorem Ready.encFits {s : State} (hs : Ready s) (out : List Byte) : EncFits s out := by
  intro n hn
  rw [hs.encUnbounded] at hn
  cases hn

/-- The state after ENC_ADD of `b`: the block's encoder takes the step of `encPush`. -/
def afterEncAdd (s : State) (b : Byte) : State :=
  State.respond { s with encOut := (encPush s.encoder b).out, encCk := (encPush s.encoder b).ck } plainResponse

theorem performOne_encAdd_of_ready (s : State) (b : Byte) (hs : Ready s) :
    performOne (encode (.encAdd b)) s = .next (afterEncAdd s b) :=
  (performOne_encAdd b s).trans (exec_encAdd_of_fits (hs.encFits _))

theorem foldl_afterEncAdd (s : State) (p : List Byte) :
    p.foldl afterEncAdd s =
      { s with encOut := (p.foldl encPush s.encoder).out, encCk := (p.foldl encPush s.encoder).ck,
               responses := s.responses ++ List.replicate p.length plainResponse } := by
  induction p generalizing s with
  | nil => simp [State.encoder]
  | cons b q ih =>
    have hencoder : (afterEncAdd s b).encoder = encPush s.encoder b := rfl
    rw [List.foldl_cons, ih, hencoder, List.foldl_cons, List.length_cons, List.replicate_succ]
    simp [afterEncAdd]

/-- The run of ENC_ADD of each byte feeds the block's encoder as `frameOf` feeds its own. -/
theorem perform_encAdds {s : State} (hs : Ready s) (p : List Byte) :
    perform (encAdds p) s = .next (p.foldl afterEncAdd s) :=
  perform_map_eq_foldl performOne_encAdd_of_ready hs p

/-- Settles O19: an empty encoder is the fresh one, so after the payload it holds what O17 closes to the wire frame, and
ENC_FRAME leaves it empty again. -/
theorem encodingAMessageReturnsItsFrame : Obligations.EncodingAMessageReturnsItsFrame := by
  unfold Obligations.EncodingAMessageReturnsItsFrame
  intro s p hs hout hck hp
  have hadds := perform_encAdds hs p
  have hready : Ready (p.foldl afterEncAdd s) := hs.perform hadds
  have hfresh : s.encoder = freshEncoder := by rw [State.encoder, hout, hck]; rfl
  have hframe : closedFrame (p.foldl afterEncAdd s).encOut (p.foldl afterEncAdd s).encCk = frameOnWire p := by
    rw [← encClose_encoder, foldl_afterEncAdd, hfresh, ← frameOfIsWireFrame p hp]
    rfl
  have hexec := (performOne_encFrame _).trans (exec_encFrame_of_fits (hready.encFits _))
  rw [perform_append hs hadds, perform_singleton hready hexec, hframe, foldl_afterEncAdd, ← hout, ← hck]
  rfl

end Sys2Proof.Machine
end

section
/-! The Frame Decoder along a run: the bytes a decoder takes with the `DONE` values it gives, the frame it recovers from
every sound state (R151 to R154), and the same on the block by `DEC_ADDS` (R58, R86). -/

namespace Sys2Proof.Machine

open Sys2Proof

/-! ### A decoder along its bytes -/

/-- From the decoder `d` the bytes `bs` give the `DONE` values `ds` and leave the decoder `d'`. -/
inductive Feeds : Decoder → List Byte → List Bool → Decoder → Prop
  | nil (d : Decoder) : Feeds d [] [] d
  | cons {d d₁ d' : Decoder} {b : Byte} {bs : List Byte} {done : Bool} {ds : List Bool} (first : decstep d b = (d₁, done))
      (rest : Feeds d₁ bs ds d') : Feeds d (b :: bs) (done :: ds) d'

section
variable {d d₁ d' : Decoder} {bs cs : List Byte} {ds es : List Bool}

theorem Feeds.length_eq (h : Feeds d bs ds d') : ds.length = bs.length := by
  induction h with
  | nil => rfl
  | cons _ _ ih => rw [List.length_cons, List.length_cons, ih]

theorem Feeds.append (h : Feeds d bs ds d₁) (h' : Feeds d₁ cs es d') : Feeds d (bs ++ cs) (ds ++ es) d' := by
  induction h with
  | nil => exact h'
  | cons first _ ih => exact .cons first (ih h')

theorem Feeds.sound (h : Feeds d bs ds d') (hd : d.Sound) : d'.Sound := by
  induction h with
  | nil => exact hd
  | @cons d d₁ _ b _ _ _ first _ ih =>
    have hfirst : d₁ = (decstep d b).1 := by rw [first]
    exact ih (hfirst ▸ decstep_sound hd b)

/-- Every byte has a row of the table. -/
theorem exists_feeds (d : Decoder) (bs : List Byte) : ∃ ds d', Feeds d bs ds d' := by
  induction bs generalizing d with
  | nil => exact ⟨[], d, .nil d⟩
  | cons b bs ih =>
    obtain ⟨ds, d', hrest⟩ := ih (decstep d b).1
    exact ⟨(decstep d b).2 :: ds, d', .cons rfl hrest⟩

/-- The bytes complete no frame. -/
def Passes (d : Decoder) (bs : List Byte) (d' : Decoder) : Prop := Feeds d bs (List.replicate bs.length false) d'

theorem Passes.append (h : Passes d bs d₁) (h' : Passes d₁ cs d') : Passes d (bs ++ cs) d' := by
  unfold Passes
  rw [List.length_append, List.replicate_add]
  exact Feeds.append h h'

end

/-! ### A frame -/

/-- The start pair brings every sound decoder to S2 with an empty buffer (R151). -/
theorem passes_startPair {d : Decoder} (h : d.Sound) : Passes d [startByte, startByte] { st := .s2, buf := [] } := by
  obtain ⟨st, buf⟩ := d
  cases st with
  | s0 | s1 | s2 =>
    obtain rfl : buf = [] := h.1 rfl
    exact .cons rfl (.cons rfl (.nil _))
  | s3 | s4 | s5 => exact .cons rfl (.cons rfl (.nil _))

/-- What the decoder makes of a first payload byte: `0xFE`, escaped on the wire, loses its `START` in S2 (conflict C1). -/
def recovered (b : Byte) : Byte := if b = startByte then escapedStart else b

theorem recovered_of_ne {b : Byte} (h : b ≠ startByte) : recovered b = b := if_neg h

/-- The first payload byte, escaped (R144, R153). -/
theorem passes_first (b : Byte) :
    Passes { st := .s2, buf := [] } (esc b) { st := .s3, buf := [recovered b] } := by
  by_cases hb : b = startByte
  · subst hb
    exact .cons rfl (.cons rfl (.nil _))
  · rw [esc_of_ne_startByte hb, recovered_of_ne hb]
    exact .cons (decstep_of_ne_start (by simp) hb) (.nil _)

/-- A later payload byte, escaped, is appended as it was (R145, R146). -/
theorem passes_esc (b : Byte) (buf : List Byte) :
    Passes { st := .s3, buf := buf } (esc b) { st := .s3, buf := buf ++ [b] } := by
  by_cases hb : b = startByte
  · subst hb
    exact .cons rfl (.cons rfl (.nil _))
  · rw [esc_of_ne_startByte hb]
    exact .cons (decstep_of_ne_start (by simp) hb) (.nil _)

theorem passes_flatMap_esc (p buf : List Byte) :
    Passes { st := .s3, buf := buf } (p.flatMap esc) { st := .s3, buf := buf ++ p } := by
  induction p generalizing buf with
  | nil => rw [List.append_nil]; exact .nil _
  | cons b q ih =>
    rw [List.flatMap_cons, List.append_cons]
    exact (passes_esc b buf).append (ih (buf ++ [b]))

/-- A frame before its last byte. -/
def frameBody (p : List Byte) : List Byte :=
  [startByte, startByte] ++ (withChecksum p (ckfold seed p)).flatMap esc ++ [startByte]

theorem frameOnWire_eq_frameBody (p : List Byte) : frameOnWire p = frameBody p ++ [endByte] := by
  simp [frameOnWire, frameBody, withChecksum, startByte, endByte, seed]

/-- The decoder's state before the last byte of a frame: everything but the terminator's end (R145). -/
theorem passes_frameBody {d : Decoder} (h : d.Sound) (b : Byte) (q : List Byte) :
    Passes d (frameBody (b :: q))
      { st := .s4, buf := withChecksum (recovered b :: q) (ckfold seed (b :: q)) } := by
  have hrest := passes_flatMap_esc (withChecksum q (ckfold seed (b :: q))) [recovered b]
  have hstart (buf : List Byte) : Passes { st := .s3, buf := buf } [startByte] { st := .s4, buf := buf } :=
    .cons rfl (.nil _)
  exact ((passes_startPair h).append ((passes_first b).append hrest)).append (hstart _)

/-- A whole frame gives `DONE` on its last byte only and leaves the payload with its checksum, the first byte as
`recovered` says (R152, R153). -/
theorem feeds_frameOnWire {d : Decoder} (h : d.Sound) (b : Byte) (q : List Byte) :
    Feeds d (frameOnWire (b :: q)) (List.replicate ((frameOnWire (b :: q)).length - 1) false ++ [true])
      { st := .s5, buf := withChecksum (recovered b :: q) (ckfold seed (b :: q)) } := by
  have hend (buf : List Byte) : Feeds { st := .s4, buf := buf } [endByte] [true] { st := .s5, buf := buf } :=
    .cons rfl (.nil _)
  rw [frameOnWire_eq_frameBody, List.length_append, List.length_singleton, Nat.add_sub_cancel]
  exact Feeds.append (passes_frameBody h b q) (hend _)

/-- A frame whose payload does not begin with `0xFE` gives its payload back (R152). -/
theorem feeds_frameOnWire_of_head_ne {d : Decoder} (h : d.Sound) {p : List Byte} (hp : p ≠ [])
    (hhead : p.head? ≠ some 0xFE#8) :
    Feeds d (frameOnWire p) (List.replicate ((frameOnWire p).length - 1) false ++ [true])
      { st := .s5, buf := withChecksum p (ckfold seed p) } := by
  cases p with
  | nil => exact absurd rfl hp
  | cons b q =>
    have hb : b ≠ startByte := fun hb => hhead (congrArg some hb)
    have hframe := feeds_frameOnWire h b q
    rwa [recovered_of_ne hb] at hframe

/-! ### The block's decoder -/

/-- The state after bytes that gave the `DONE` values `ds` and left the decoder `d`. -/
def State.afterFeed (s : State) (ds : List Bool) (d : Decoder) : State :=
  { s with decState := d.st.code, decBuf := d.buf, responses := s.responses ++ ds.map doneResponse }

theorem State.holds_afterFeed (s : State) (ds : List Bool) (d : Decoder) : (s.afterFeed ds d).Holds d := ⟨rfl, rfl⟩

theorem Ready.decFits {s : State} (hs : Ready s) (buf : List Byte) : DecFits s buf := by
  intro n hn
  rw [hs.decUnbounded] at hn
  cases hn

/-- DEC_ADD on an unbounded block is `decstep`. -/
theorem performOne_decAdd_of_holds {s : State} {d d' : Decoder} {b : Byte} {done : Bool} (hs : Ready s) (hd : s.Holds d)
    (hstep : decstep d b = (d', done)) : performOne (encode (.decAdd b)) s = .next (s.afterFeed [done] d') := by
  obtain ⟨rfl, rfl⟩ := Prod.mk.inj hstep
  rw [performOne_decAdd, exec_decAdd, consumeByte_of_fits d.st hd.state_eq (hs.decFits _), hd.buf_eq]
  rfl

/-- `DEC_ADDS` on an unbounded block feeds its decoder. -/
theorem Feeds.perform {s : State} {d d' : Decoder} {bs : List Byte} {ds : List Bool} (h : Feeds d bs ds d') (hs : Ready s)
    (hd : s.Holds d) : perform (decAdds bs) s = .next (s.afterFeed ds d') := by
  induction h generalizing s with
  | nil d =>
    have hsame : s.afterFeed [] d = s := by rw [State.afterFeed, ← hd.state_eq, ← hd.buf_eq]; simp
    rw [hsame]
    exact perform_nil s hs.idle
  | @cons d d₁ d' b bs done ds first _ ih =>
    have hone := performOne_decAdd_of_holds hs hd first
    rw [decAdds, List.map_cons, perform_cons hs.idle hs.live hone]
    refine (ih (hs.performOne hone) (s.holds_afterFeed [done] d₁)).trans ?_
    simp [State.afterFeed]

/-- Settles O25: the start pair on the decoder that the block holds. -/
theorem twoStartBytesResynchronise : Obligations.TwoStartBytesResynchronise := by
  unfold Obligations.TwoStartBytesResynchronise
  intro s hs hsound
  obtain ⟨d, hholds, hd⟩ := exists_holds_of_decoderSound hsound
  exact Feeds.perform (passes_startPair hd) hs hholds

/-- Settles O26: a whole frame on the decoder that the block holds. -/
theorem frameRecovery : Obligations.FrameRecovery := by
  unfold Obligations.FrameRecovery
  intro s p hs hsound hp hhead
  obtain ⟨d, hholds, hd⟩ := exists_holds_of_decoderSound hsound
  rw [(feeds_frameOnWire_of_head_ne hd hp hhead).perform hs hholds, State.afterFeed, List.map_append,
    List.map_replicate, ← List.append_assoc]
  rfl

/-- Settles O27: a whole frame, its first byte `recovered` as `0xF0`. -/
theorem firstByteFEComesBackAsF0 : Obligations.FirstByteFEComesBackAsF0 := by
  unfold Obligations.FirstByteFEComesBackAsF0
  intro s q hs hsound
  obtain ⟨d, hholds, hd⟩ := exists_holds_of_decoderSound hsound
  rw [(feeds_frameOnWire hd 0xFE#8 q).perform hs hholds, State.afterFeed, List.map_append, List.map_replicate,
    ← List.append_assoc]
  rfl

/-- Settles O28: any bytes leave a sound decoder, which the frame then finds. -/
theorem junkBeforeAFrameIsTolerated : Obligations.JunkBeforeAFrameIsTolerated := by
  unfold Obligations.JunkBeforeAFrameIsTolerated
  intro s junk p hs hsound hp hhead
  obtain ⟨d, hholds, hd⟩ := exists_holds_of_decoderSound hsound
  obtain ⟨ds, d₁, hjunk⟩ := exists_feeds d junk
  have hframe := feeds_frameOnWire_of_head_ne (hjunk.sound hd) hp hhead
  refine ⟨ds, hjunk.length_eq, ?_⟩
  rw [(hjunk.append hframe).perform hs hholds, State.afterFeed, List.map_append, List.map_append, List.map_replicate,
    ← List.append_assoc, ← List.append_assoc]
  rfl

/-- Settles O29: a run over two lists goes on where the first ends, and each byte gives its `DONE` value. -/
theorem decAddsChunksAndResponses : Obligations.DecAddsChunksAndResponses := by
  unfold Obligations.DecAddsChunksAndResponses
  refine ⟨fun s t bs cs hs hrun => ?chunks, fun s bs hs hsound => ?responses⟩
  case chunks =>
    have hsplit : decAdds (bs ++ cs) = decAdds bs ++ decAdds cs := List.map_append
    rw [hsplit, perform_append hs hrun]
  case responses =>
    obtain ⟨d, hholds, -⟩ := exists_holds_of_decoderSound hsound
    obtain ⟨ds, d', hfeeds⟩ := exists_feeds d bs
    exact ⟨s.afterFeed ds d', ds, hfeeds.perform hs hholds, hfeeds.length_eq, rfl⟩

end Sys2Proof.Machine
end

section
/-! Flag arrays there and back (R79), and the status codes (R240). -/

namespace Sys2Proof.Machine

open Sys2Proof

/-- Flag `n` is bit `n mod 8` of byte `n div 8`, packed and unpacked (R56). -/
theorem unpackflags_packflags_getElem? {f : List Bool} {n : Nat} (hn : n < f.length) :
    (unpackflags (packflags f))[n]? = f[n]? := by
  have hj : n % 8 < 8 := Nat.mod_lt n (by decide)
  have hk : n / 8 < (packflags f).length := by rw [packflags_length]; omega
  have hbyte := List.getElem?_eq_getElem hk
  have hflag := unpackflags_getElem? hj hbyte
  rwa [(flagsAreLeastSignificantFirst.1 f).2 _ _ hj _ hbyte, Nat.div_add_mod, List.getElem?_eq_getElem hn,
    Option.getD_some, ← List.getElem?_eq_getElem hn] at hflag

theorem packflags_unpackflags_getElem? {d : List Byte} {k : Nat} (hk : k < d.length) :
    (packflags (unpackflags d))[k]? = d[k]? := by
  have hk' : k < (packflags (unpackflags d)).length := by rw [packflags_length, unpackflags_length]; omega
  have hbyte := List.getElem?_eq_getElem hk'
  rw [hbyte, List.getElem?_eq_getElem hk]
  refine congrArg some (BitVec.eq_of_getLsbD_eq fun j hj => ?_)
  rw [(flagsAreLeastSignificantFirst.1 _).2 k j hj _ hbyte, unpackflags_getElem? hj (List.getElem?_eq_getElem hk),
    Option.getD_some]

/-- Settles O37: flag by flag and byte by byte; the lengths agree where no flag of the last byte is unused. -/
theorem unpackInvertsPack : Obligations.UnpackInvertsPack := by
  unfold Obligations.UnpackInvertsPack
  refine ⟨fun f hf => List.ext_getElem? fun n => ?flags, fun d => List.ext_getElem? fun k => ?bytes⟩
  case flags =>
    obtain hn | hn := Nat.lt_or_ge n f.length
    · exact unpackflags_packflags_getElem? hn
    · rw [List.getElem?_eq_none hn, List.getElem?_eq_none (by rw [unpackflags_length, packflags_length]; omega)]
  case bytes =>
    obtain hk | hk := Nat.lt_or_ge k d.length
    · exact packflags_unpackflags_getElem? hk
    · rw [List.getElem?_eq_none hk, List.getElem?_eq_none (by rw [packflags_length, unpackflags_length]; omega)]

/-- Settles O48: one case per status; 6 and 7 are the codes that none of them has (log 21). -/
theorem statusCodes : Obligations.StatusCodes := by
  unfold Obligations.StatusCodes
  refine ⟨by decide, fun e => ?_, rfl, rfl⟩
  cases e <;> exact ⟨rfl, by decide, by decide⟩

end Sys2Proof.Machine
end

section
/-! Messages decoded: MSG_DECODE of a frame (R215, R216), its agreement with the streaming path (R202, R280), and the
command code that no answer has (R278). -/

namespace Sys2Proof.Machine

open Sys2Proof

/-! ### The first frame of a run of bytes -/

/-- `DONE` is given on the way from S4 to S5, which keeps the buffer (R145, R148). -/
theorem decstep_fst_of_done {d : Decoder} {b : Byte} (hdone : (decstep d b).2 = true) :
    (decstep d b).1 = { st := .s5, buf := d.buf } := by
  obtain ⟨st, buf⟩ := d
  cases st with
  | s4 =>
    unfold decstep at hdone ⊢
    cases hclass : classify b with
    | endMark => rfl
    | start | escaped | other => rw [hclass] at hdone; cases hdone
  | s0 | s1 | s2 | s3 | s5 => cases hdone

/-- Bytes that complete a frame on the last of them are a first frame, whatever follows (R201, R280). -/
theorem Feeds.completed {d d' : Decoder} {bs : List Byte} {n : Nat}
    (h : Feeds d bs (List.replicate n false ++ [true]) d') :
    d'.st = .s5 ∧ ∀ suffix, firstFrame d (bs ++ suffix) = some d'.buf := by
  induction n generalizing d bs with
  | zero =>
    obtain _ | @⟨_, d₁, _, b, _, _, _, first, rest⟩ := h
    cases rest
    have hdone : (decstep d b).2 = true := by rw [first]
    obtain rfl : d' = (decstep d b).1 := by rw [first]
    exact ⟨by rw [decstep_fst_of_done hdone], fun suffix => firstFrame_cons_of_done hdone⟩
  | succ n ih =>
    obtain _ | @⟨_, d₁, _, b, _, _, _, first, rest⟩ := h
    have hnot : (decstep d b).2 = false := by rw [first]
    obtain rfl : d₁ = (decstep d b).1 := by rw [first]
    obtain ⟨hst, hframe⟩ := ih rest
    exact ⟨hst, fun suffix => (firstFrame_cons_of_not_done hnot).trans (hframe suffix)⟩

theorem freshDecoder_sound : freshDecoder.Sound := Decoder.sound_of_empty rfl

/-- MSG_DECODE finds in the frame of a payload what every decoder recovers from it. -/
theorem firstFrame_frameOf (b : Byte) (q : List Byte) :
    firstFrame freshDecoder (frameOf (b :: q)) = some (withChecksum (recovered b :: q) (ckfold seed (b :: q))) := by
  have hframe := (feeds_frameOnWire freshDecoder_sound b q).completed.2 []
  rwa [List.append_nil, ← frameOfIsWireFrame _ (List.cons_ne_nil b q)] at hframe

/-! ### MSG_DECODE of a frame -/

theorem exec_msgDecode_of_firstFrame {raw p : List Byte} (s : State) (h : firstFrame freshDecoder raw = some p) :
    exec (.msgDecode raw) s = returns (some (.answer (decodePayload s.params.catalog p))) s := by
  rw [exec_msgDecode, decodeMessage_eq_bind, h, Option.bind_some]

/-- A completed payload with the right checksum is decoded by the variant of its code. -/
theorem exec_msgDecode_of_checksum {raw data : List Byte} {code hi lo : Byte} {v : AnswerVariant} {s : State}
    (hframe : firstFrame freshDecoder raw = some (code :: data ++ [hi, lo]))
    (hck : hi = hiByte (ckfold seed (code :: data)) ∧ lo = loByte (ckfold seed (code :: data)))
    (hans : (Catalog.entry s.params.catalog code).ans = some v) :
    exec (.msgDecode raw) s = returns (some (.answer (decodeVariant code v data))) s := by
  rw [exec_msgDecode_of_firstFrame s hframe, decodePayload_of_checksum hck, hans, Option.bind_some]

/-- Settles O42: the frame gives back the payload and its checksum; where the code is `0xFE` the payload begins with
`0xF0` instead (conflict C1). -/
theorem messageRoundTrip : Obligations.MessageRoundTrip := by
  unfold Obligations.MessageRoundTrip
  refine ⟨fun s cmd data v hcmd hans => ?other, fun s data => ?startByte⟩
  case other =>
    have hframe := firstFrame_frameOf cmd data
    rw [recovered_of_ne hcmd] at hframe
    exact exec_msgDecode_of_checksum hframe ⟨rfl, rfl⟩ hans
  case startByte => exact exec_msgDecode_of_firstFrame s (firstFrame_frameOf 0xFE#8 data)

/-- Settles O45: the folds of the four fixed payloads agree in pairs, so both frames of MD-40 pass the check; the catalog
is open, and is read at the code 0x7F only. -/
theorem undetectedSingleBitFlip : Obligations.UndetectedSingleBitFlip := by
  unfold Obligations.UndetectedSingleBitFlip
  refine ⟨by decide, by decide, fun s hans => ⟨?sent, ?flipped⟩⟩
  case sent =>
    exact exec_msgDecode_of_checksum (code := 0x7F) (data := [0x80, 0x01, 0x7F, 0x80, 0x00, 0x00]) (hi := 0x00) (lo := 0xA6)
      (by decide) (by decide) hans
  case flipped =>
    exact exec_msgDecode_of_checksum (code := 0x7F) (data := [0x80, 0x01, 0x7F, 0x80, 0x80, 0x00]) (hi := 0x00) (lo := 0xA6)
      (by decide) (by decide) hans

/-! ### Streaming and one-shot -/

theorem doneResponse_injective : Function.Injective doneResponse := by
  intro d e h
  simpa [doneResponse] using h

/-- Settles O43: the bytes that completed a frame in the block's empty decoder complete it in MSG_DECODE's fresh one, and
the block is left in S5 with the same payload. -/
theorem streamingAgreesWithOneShot : Obligations.StreamingAgreesWithOneShot := by
  unfold Obligations.StreamingAgreesWithOneShot
  intro s t raw suffix hs hst hbuf _ hrun hresponses
  have hholds : s.Holds freshDecoder := ⟨hst, hbuf⟩
  obtain ⟨ds, d', hfeeds⟩ := exists_feeds freshDecoder raw
  obtain rfl : s.afterFeed ds d' = t := Host.Outcome.next.inj ((hfeeds.perform hs hholds).symm.trans hrun)
  have hdones : ds.map doneResponse = (List.replicate (raw.length - 1) false ++ [true]).map doneResponse := by
    rw [List.append_assoc] at hresponses
    rw [List.append_cancel_left hresponses, List.map_append, List.map_replicate]
    rfl
  obtain rfl := doneResponse_injective.list_map hdones
  obtain ⟨hs5, hframe⟩ := hfeeds.completed
  refine ⟨decodePayload s.params.catalog d'.buf, exec_msgDispatch_of_s5 (congrArg DecState.code hs5), ?_⟩
  exact exec_msgDecode_of_firstFrame _ (hframe suffix)

/-! ### The code `0xFE` -/

theorem decodeVariant_code {code : Byte} {v : AnswerVariant} {data : List Byte} {a : Answer}
    (h : decodeVariant code v data = some a) : a.code = code := by
  cases v with
  | flagArray | changeNotify | result =>
    simp only [decodeVariant] at h
    split at h
    · obtain rfl := Option.some.inj h
      rfl
    · cases h

/-- An answer's code is the first byte of its payload (R200). -/
theorem decodePayload_code {cat : Catalog} {p : List Byte} {a : Answer} (h : decodePayload cat p = some a) :
    p.head? = some a.code := by
  unfold decodePayload at h
  split at h
  · cases h
  · next hlong =>
    split at h
    · simp only at h
      split at h
      · cases h
      · rw [decodeVariant_code h]
        cases p with
        | nil => exact absurd (by decide) hlong
        | cons code q => rfl
    · cases h

/-- No completed frame begins with `0xFE` (R144). -/
theorem firstFrame_head_ne {d : Decoder} (hd : d.Sound) {raw p : List Byte} (h : firstFrame d raw = some p) :
    p.head? ≠ some 0xFE#8 := by
  induction raw generalizing d with
  | nil => cases h
  | cons b rest ih =>
    cases hdone : (decstep d b).2 with
    | true =>
      rw [firstFrame_cons_of_done hdone] at h
      obtain ⟨-, -, hhead⟩ := decstep_sound hd b
      exact Option.some.inj h ▸ hhead
    | false =>
      rw [firstFrame_cons_of_not_done hdone] at h
      exact ih (decstep_sound hd b) h

theorem code_ne_of_decodePayload {cat : Catalog} {p : List Byte} {a : Answer} (hhead : p.head? ≠ some 0xFE#8)
    (h : decodePayload cat p = some a) : a.code ≠ 0xFE#8 :=
  fun hcode => hhead ((decodePayload_code h).trans (congrArg some hcode))

/-- The answer is read off the response. -/
theorem answer_eq_of_returns {s t : State} {a b : Option Answer} (h : returns (some (.answer a)) s = .next t)
    (hresponses : t.responses = s.responses ++ [{ status := .ok, value := some (.answer b) }]) : a = b := by
  obtain rfl := Host.Outcome.next.inj h
  simpa using hresponses

/-- Settles O44: an answer has the first byte of a completed payload for its code, and the decoder invariant keeps `0xFE`
out of that place. -/
theorem codeFENeverReceived : Obligations.CodeFENeverReceived := by
  unfold Obligations.CodeFENeverReceived
  refine ⟨fun raw s t a hexec hresponses => ?decode, fun s t a hsound hexec hresponses => ?dispatch⟩
  case decode =>
    rw [exec_msgDecode, decodeMessage_eq_bind] at hexec
    obtain ⟨p, hframe, hpayload⟩ := Option.bind_eq_some_iff.1 (answer_eq_of_returns hexec hresponses)
    exact code_ne_of_decodePayload (firstFrame_head_ne freshDecoder_sound hframe) hpayload
  case dispatch =>
    obtain ⟨d, hholds, -, -, hhead⟩ := exists_holds_of_decoderSound hsound.decoder
    by_cases hs5 : d.st = .s5
    · rw [exec_msgDispatch_of_s5 (hs5 ▸ hholds.state_eq), hholds.buf_eq] at hexec
      exact code_ne_of_decodePayload hhead (answer_eq_of_returns hexec hresponses)
    · rw [exec_msgDispatch_of_ne_s5 hholds.state_eq hs5] at hexec
      cases answer_eq_of_returns hexec hresponses

end Sys2Proof.Machine
end

section
/-! The whole machine: an idle block (R276, R283), operations performed again (R53), the codec that touches no state
(R177, R201), and programs that run to their end (R281). -/

namespace Sys2Proof.Machine

open Sys2Proof

/-- Settles O55: with nothing pending a step looks at the fault flag only (log 9). -/
theorem idleBlockStaysAsItIs : Obligations.IdleBlockStaysAsItIs := by
  unfold Obligations.IdleBlockStaysAsItIs
  intro s hidle hlive
  simp [step, hidle, hlive]

/-! ### Performed again -/

/-- MSG_DISPATCH reads the decoder, which it leaves as it was. -/
theorem msgDispatch_again {s t : State} (h : exec .msgDispatch s = .next t) :
    ∃ r : Response, t = s.respond r ∧ exec .msgDispatch t = .next (t.respond r) := by
  cases hst : decStateOf s.decState with
  | none =>
    rw [unassignedDecStateFaults _ 0 s (.inr rfl) (decStateOf_eq_none.1 hst)] at h
    cases h
  | some st =>
    have hcode : s.decState = st.code := decStateOf_eq_some.1 hst
    by_cases hs5 : st = .s5
    · subst hs5
      rw [exec_msgDispatch_of_s5 hcode] at h
      obtain rfl := Host.Outcome.next.inj h
      exact ⟨_, rfl, exec_msgDispatch_of_s5 hcode⟩
    · rw [exec_msgDispatch_of_ne_s5 hcode hs5] at h
      obtain rfl := Host.Outcome.next.inj h
      exact ⟨_, rfl, exec_msgDispatch_of_ne_s5 hcode hs5⟩

/-- Settles O56: CK_INIT and DEC_RESET write the same values again; the others read what they leave as it was. -/
theorem otherOperationsAreIdempotent : Obligations.OtherOperationsAreIdempotent := by
  unfold Obligations.OtherOperationsAreIdempotent
  intro i s t h hckAdd hencAdd hencFrame hdelivers hother
  cases i with
  | ckInit | decReset | ckRead | decFrame | msgDecode =>
    obtain rfl := complete_next_iff.1 h
    exact ⟨_, rfl, rfl⟩
  | msgEncNodata | msgEncSel | msgEncAuth =>
    obtain rfl := Host.Outcome.next.inj h
    exact ⟨_, rfl, rfl⟩
  | msgDispatch =>
    obtain ⟨r, rfl, hagain⟩ := msgDispatch_again h
    exact ⟨r, rfl, hagain⟩
  | ckAdd b => exact absurd rfl (hckAdd b)
  | encAdd b => exact absurd rfl (hencAdd b)
  | encFrame => exact absurd rfl hencFrame
  | decAdd b => exact absurd (.inl rfl) (hdelivers b)
  | wireStart => exact absurd (.inr (.inl ⟨rfl, rfl⟩)) (hdelivers 0xFE#8)
  | wireEnd => exact absurd (.inr (.inr (.inl ⟨rfl, rfl⟩))) (hdelivers 0x0D#8)
  | wireEscapedStart => exact absurd (.inr (.inr (.inr (.inl ⟨rfl, rfl⟩)))) (hdelivers 0xF0#8)
  | wireOther b => exact absurd rfl (hother b)

/-! ### The codec that touches no state -/

/-- Settles O58: each of the four replies with a function of the catalog and its operands. -/
theorem privateCodecIsIndependent : Obligations.PrivateCodecIsIndependent := by
  unfold Obligations.PrivateCodecIsIndependent
  intro i s u hi hcatalog
  obtain ⟨cmd, rfl⟩ | ⟨cmd, rfl⟩ | ⟨cmd, code, flags, rfl⟩ | ⟨raw, rfl⟩ := hi
  · exact ⟨_, exec_msgEncNodata cmd s, by rw [exec_msgEncNodata, ← hcatalog]; rfl⟩
  · exact ⟨_, exec_msgEncSel cmd s, by rw [exec_msgEncSel, ← hcatalog]; rfl⟩
  · exact ⟨_, exec_msgEncAuth cmd code flags s, by rw [exec_msgEncAuth, ← hcatalog]; rfl⟩
  · exact ⟨_, exec_msgDecode raw s, by rw [exec_msgDecode, ← hcatalog]; rfl⟩

/-! ### Programs -/

theorem consumeByte_total {s : State} {d : Decoder} (hd : s.Holds d) (c : ByteClass) (b : Byte) :
    ∃ t, consumeByte c b s = .next t := by
  rw [consumeByte_of_code hd.state_eq]
  split <;> exact ⟨_, rfl⟩

/-- With an assigned `DEC_STATE` every instruction has a next state (R25 is the only fault of a meaning). -/
theorem exec_total {s : State} {d : Decoder} (hd : s.Holds d) (i : Instr) : ∃ t, exec i s = .next t := by
  cases i with
  | encAdd b => rw [exec_encAdd]; split <;> exact ⟨_, rfl⟩
  | encFrame => rw [exec_encFrame]; split <;> exact ⟨_, rfl⟩
  | decAdd | wireStart | wireEnd | wireEscapedStart | wireOther => exact consumeByte_total hd _ _
  | msgDispatch =>
    by_cases hs5 : d.st = .s5
    · exact ⟨_, exec_msgDispatch_of_s5 (hs5 ▸ hd.state_eq)⟩
    · exact ⟨_, exec_msgDispatch_of_ne_s5 hd.state_eq hs5⟩
  | _ => exact ⟨_, rfl⟩

/-- A ready, sound block gives a packet its one response and stays sound. -/
theorem performOne_total {s : State} (hs : Ready s) (hsound : Sound s) (p : Packet) :
    ∃ t r, performOne p s = .next t ∧ t.responses = s.responses ++ [r] ∧ Sound t := by
  cases haccept : accept s.params.seqCap p with
  | error e =>
    have hone : performOne p s = fails .illegalOp s := by simp only [performOne, haccept]
    exact ⟨_, _, hone, rfl, hsound.respond _⟩
  | ok i =>
    have hone : performOne p s = exec i s := by simp only [performOne, haccept]
    obtain ⟨d, hholds, -⟩ := exists_holds_of_decoderSound hsound.decoder
    obtain ⟨t, hexec⟩ := exec_total hholds i
    have hnext : performOne p s = .next t := hone.trans hexec
    have hkept : Sound t := hsound.exec (wellFormed_of_decode (decode_of_accept haccept)) hexec
    cases exec_requestEnd hexec with
    | completed v hresponses => exact ⟨t, _, hnext, hresponses, hkept⟩
    | failed e heq => exact ⟨t, _, hnext, by rw [heq]; rfl, hkept⟩
    | overflowed heq =>
      have hlive : t.faulted = false := (hs.performOne hnext).live
      rw [heq] at hlive
      cases hlive

/-- By induction on the program: a packet leaves the block ready and sound for the next. -/
theorem perform_total {s : State} (hs : Ready s) (hsound : Sound s) (prog : List Packet) :
    ∃ t, perform prog s = .next t ∧ t.responses.length = s.responses.length + prog.length ∧ Ready t ∧ Sound t := by
  induction prog generalizing s with
  | nil => exact ⟨s, perform_nil s hs.idle, rfl, hs, hsound⟩
  | cons p ps ih =>
    obtain ⟨u, r, hone, hresponses, hkept⟩ := performOne_total hs hsound p
    obtain ⟨t, hrun, hlength, hready, hlast⟩ := ih (hs.performOne hone) hkept
    refine ⟨t, (perform_cons hs.idle hs.live hone).trans hrun, ?_, hready, hlast⟩
    simp only [hlength, hresponses, List.length_append, List.length_cons, List.length_nil]
    omega

/-- Settles O57: the run exists with its responses, and its end is live, so that it is observed whole. -/
theorem everyRequestGetsItsResponse : Obligations.EveryRequestGetsItsResponse := by
  unfold Obligations.EveryRequestGetsItsResponse
  intro s prog hs hsound
  obtain ⟨t, hrun, hlength, hready, hkept⟩ := perform_total hs hsound prog
  refine ⟨t, hrun, hlength, hready, hkept, ?_⟩
  rw [hrun, observe, State.observe, hready.live, if_neg Bool.false_ne_true]

end Sys2Proof.Machine
end

section
/-! Several instances under one pair of tables (R30, R62, R251). -/

namespace Sys2Proof.Machine

open Sys2Proof

theorem stepAt_other (sys : Instances) {j k : Nat} (h : j ≠ k) : (stepAt sys k).members[j]? = sys.members[j]? := by
  rw [stepAt_getElem?, if_neg h.symm]

theorem stepAt_same {sys : Instances} {k : Nat} {m : Member} (h : sys.members[k]? = some (.next m)) :
    (stepAt sys k).members[k]? = some (ownOutcome (step (m.under sys.tables))) := by
  rw [stepAt_getElem?, if_pos rfl, h]
  rfl

/-- A step keeps the tables it ran under (R62). -/
theorem under_member_of_step {m : Member} {tables : Tables} {t : State} (h : step (m.under tables) = .next t) :
    t.member.under tables = t :=
  State.under_member (congrArg Params.toTables (configurationNeverChanges _ _ h))

/-- Where `boot` does not refuse, it gives the reset state under the loaded tables (R270). -/
theorem boot_of_loadTables {c : Setup} {t : Tables} (hrequesters : c.requesters ≤ 1)
    (htables : loadTables c.rows c.named c.resultTexts = some t) :
    boot c = .ok (State.fresh
      { toTables := t, decBufCap := c.decBufCap, encOutCap := c.encOutCap, seqCap := c.seqCap }) := by
  simp only [boot, htables, if_neg (Nat.not_lt.2 hrequesters)]

/-- Settles O59: a step replaces the member at its own place, by what the step of its state under the tables leaves; and
`bootSystem` makes of each setup what `boot` does. -/
theorem instancesAreIndependent : Obligations.InstancesAreIndependent := by
  unfold Obligations.InstancesAreIndependent
  refine ⟨fun sys k => ⟨rfl, List.length_modify .., fun j hj => stepAt_other sys hj, fun m hm => ?own⟩,
    fun c sys hboot => ?booted⟩
  case own =>
    refine ⟨rfl, rfl, fun t hstep => ⟨t.member, ?_, under_member_of_step hstep⟩, fun f hfault => ?_⟩
    · rw [stepAt_same hm, hstep, ownOutcome]
    · rw [stepAt_same hm, hfault, ownOutcome]
  case booted =>
    obtain ⟨hrequesters, htables, hmembers⟩ := bootSystem_ok hboot
    refine ⟨by rw [hmembers, List.length_map], fun k m hm => ?_⟩
    refine ⟨(State.fresh { toTables := sys.tables, toCaps := m.toCaps }).member, ?_, ?_⟩
    · rw [hmembers, List.getElem?_map, hm, Option.map_some]
    · exact boot_of_loadTables (c := c.setupOf m) (hrequesters m (List.mem_of_getElem? hm)) htables

end Sys2Proof.Machine
end

section
/-! Loading a configuration (R60, R273, D21): which rows are refused, and what the entry of an accepted row is. -/

namespace Sys2Proof.Machine

open Sys2Proof

/-! ### The encoding shapes of a row -/

/-- The shapes cannot be added to the entry `e`: with the FlagsAuth it has there would be two, or a length set is empty. -/
def ShapesMalformed (e : Entry) (enc : List RawShape) : Prop :=
  2 ≤ (if e.flagsAuth.isSome then 1 else 0) + (enc.filter RawShape.isAuth).length ∨ .flagsAuth [] ∈ enc

/-- The entry `e'` is `e` with the shapes added. -/
structure AddsShapes (e : Entry) (enc : List RawShape) (e' : Entry) : Prop where
  noData_iff : e'.noData = true ↔ e.noData = true ∨ .noData ∈ enc
  noDataSel_iff : e'.noDataSel = true ↔ e.noDataSel = true ∨ .noDataSel ∈ enc
  ans_eq : e'.ans = e.ans
  flagsAuth_none_iff : e'.flagsAuth = none ↔ e.flagsAuth = none ∧ ∀ l, .flagsAuth l ∉ enc
  flagsAuth_kept : ∀ ls, e.flagsAuth = some ls → e'.flagsAuth = some ls
  flagsAuth_added : ∀ l, .flagsAuth l ∈ enc → ∃ ls, e'.flagsAuth = some ls ∧ ∀ n, ls.has n = true ↔ n ∈ l

theorem loadShapes_cons_eq_some {e e' : Entry} {sh : RawShape} {rest : List RawShape} :
    loadShapes e (sh :: rest) = some e' ↔ ∃ e₁, addShape e sh = some e₁ ∧ loadShapes e₁ rest = some e' := by
  rw [loadShapes]
  cases addShape e sh <;> simp

theorem addShape_flagsAuth_eq_some {e e₁ : Entry} {l : List Nat} :
    addShape e (.flagsAuth l) = some e₁ ↔
      e.flagsAuth = none ∧ ∃ ls, lengthSet l = some ls ∧ { e with flagsAuth := some ls } = e₁ := by
  rw [addShape]
  cases e.flagsAuth <;> simp

theorem AddsShapes.nil (e : Entry) : AddsShapes e [] e := by
  constructor <;> simp

/-- One shape and then the others. -/
theorem AddsShapes.cons {e e₁ e' : Entry} {sh : RawShape} {rest : List RawShape} (hshape : addShape e sh = some e₁)
    (hrest : AddsShapes e₁ rest e') : AddsShapes e (sh :: rest) e' := by
  obtain ⟨hnoData, hnoDataSel, hans, hnone, hkept, hadded⟩ := hrest
  cases sh with
  | noData | noDataSel =>
    obtain rfl := Option.some.inj hshape
    exact ⟨by simpa using hnoData, by simpa using hnoDataSel, hans, by simpa using hnone, hkept, by simpa using hadded⟩
  | flagsAuth l =>
    obtain ⟨hfirst, ls, hls, rfl⟩ := addShape_flagsAuth_eq_some.1 hshape
    have hauth : e'.flagsAuth = some ls := hkept ls rfl
    refine ⟨by simpa using hnoData, by simpa using hnoDataSel, hans, ?_, fun ls' h => ?_, fun l' hl' => ?_⟩
    · exact iff_of_false (by simp [hauth]) fun h => h.2 l List.mem_cons_self
    · rw [hfirst] at h; cases h
    · obtain heq | hmem := List.mem_cons.1 hl'
      · obtain rfl := RawShape.flagsAuth.inj heq
        exact ⟨ls, hauth, lengthSet_has hls⟩
      · exact hadded l' hmem

theorem addsShapes_of_loadShapes {e e' : Entry} {enc : List RawShape} (h : loadShapes e enc = some e') :
    AddsShapes e enc e' := by
  induction enc generalizing e with
  | nil =>
    obtain rfl := Option.some.inj h
    exact .nil e
  | cons sh rest ih =>
    obtain ⟨e₁, hshape, hrest⟩ := loadShapes_cons_eq_some.1 h
    exact .cons hshape (ih hrest)

theorem loadShapes_eq_none_iff {e : Entry} {enc : List RawShape} :
    loadShapes e enc = none ↔ ShapesMalformed e enc := by
  induction enc generalizing e with
  | nil =>
    have hone : (if e.flagsAuth.isSome then 1 else 0) ≤ 1 := by split <;> decide
    simpa [loadShapes, ShapesMalformed] using hone
  | cons sh rest ih =>
    rw [loadShapes]
    cases sh with
    | noData | noDataSel => simp [addShape, ih, ShapesMalformed, RawShape.isAuth]
    | flagsAuth l =>
      cases hauth : e.flagsAuth with
      | some ls =>
        have htwo (n : Nat) : 2 ≤ 1 + (n + 1) := by omega
        simp [addShape, hauth, ShapesMalformed, RawShape.isAuth, List.filter_cons, htwo]
      | none =>
        cases l with
        | nil => simp [addShape, hauth, lengthSet, ShapesMalformed]
        | cons n ns =>
          have hcount (n : Nat) : 2 ≤ 1 + n ↔ 2 ≤ n + 1 := by omega
          simp [addShape, hauth, lengthSet, ih, ShapesMalformed, RawShape.isAuth, List.filter_cons, hcount]

/-! ### A row -/

/-- The entry that a row writes (R30). -/
def RowEntry (r : RawRow) (e : Entry) : Prop :=
  (e.noData = true ↔ .noData ∈ r.enc) ∧ (e.noDataSel = true ↔ .noDataSel ∈ r.enc) ∧
    (e.flagsAuth = none ↔ ∀ l, .flagsAuth l ∉ r.enc) ∧
    (∀ l, .flagsAuth l ∈ r.enc → ∃ ls, e.flagsAuth = some ls ∧ ∀ n, ls.has n = true ↔ n ∈ l) ∧
    (r.ans = none → e.ans = none) ∧ (r.ans = some .changeNotify → e.ans = some .changeNotify) ∧
    (r.ans = some .result → e.ans = some .result) ∧
    (∀ l, r.ans = some (.flagArray l) → ∃ ls, e.ans = some (.flagArray ls) ∧ ∀ n, ls.has n = true ↔ n ∈ l)

theorem loadVariant_eq_none_iff {v : RawVariant} : loadVariant v = none ↔ v = .flagArray [] := by
  cases v <;> simp [loadVariant]

theorem loadRow_eq_none_iff {r : RawRow} : loadRow r = none ↔ RowMalformed r := by
  have hshapes : loadShapes {} r.enc = none ↔
      2 ≤ (r.enc.filter RawShape.isAuth).length ∨ .flagsAuth [] ∈ r.enc := by
    simp [loadShapes_eq_none_iff, ShapesMalformed]
  rw [RowMalformed, ← or_assoc, ← hshapes, loadRow]
  cases loadShapes {} r.enc with
  | none => simp
  | some e =>
    cases r.ans with
    | none => simp
    | some v => simp [loadVariant_eq_none_iff]

/-- An accepted row: its shapes, and over them its answer variant. -/
theorem loadRow_eq_some {r : RawRow} {e : Entry} (h : loadRow r = some e) :
    ∃ e₁, AddsShapes {} r.enc e₁ ∧
      ((r.ans = none ∧ e = e₁) ∨ ∃ v a, r.ans = some v ∧ loadVariant v = some a ∧ e = { e₁ with ans := some a }) := by
  unfold loadRow at h
  split at h
  · cases h
  · next e₁ hshapes hans => exact ⟨e₁, addsShapes_of_loadShapes hshapes, .inl ⟨hans, (Option.some.inj h).symm⟩⟩
  · next e₁ v hshapes hans =>
    obtain ⟨a, ha, rfl⟩ := Option.map_eq_some_iff.1 h
    exact ⟨e₁, addsShapes_of_loadShapes hshapes, .inr ⟨v, a, hans, ha, rfl⟩⟩

theorem rowEntry_of_loadRow {r : RawRow} {e : Entry} (h : loadRow r = some e) : RowEntry r e := by
  obtain ⟨e₁, ⟨hnoData, hnoDataSel, hans₁, hnone, -, hadded⟩, hans⟩ := loadRow_eq_some h
  obtain ⟨hraw, rfl⟩ | ⟨v, a, hraw, hv, rfl⟩ := hans
  · refine ⟨by simpa using hnoData, by simpa using hnoDataSel, by simpa using hnone, hadded, fun _ => hans₁, ?_, ?_, ?_⟩
    all_goals simp [hraw]
  · refine ⟨by simpa using hnoData, by simpa using hnoDataSel, by simpa using hnone, hadded, by simp [hraw], ?_, ?_, ?_⟩
    · rintro hchange
      obtain rfl := Option.some.inj (hraw.symm.trans hchange)
      exact hv.symm
    · rintro hresult
      obtain rfl := Option.some.inj (hraw.symm.trans hresult)
      exact hv.symm
    · rintro l hflags
      obtain rfl := Option.some.inj (hraw.symm.trans hflags)
      obtain ⟨ls, hls, rfl⟩ := Option.map_eq_some_iff.1 hv
      exact ⟨ls, rfl, lengthSet_has hls⟩

/-! ### The rows of a catalog -/

theorem loadRows_cons_eq_some {seen : List Byte} {r : RawRow} {rest : List RawRow} {entries : List (Byte × Entry)} :
    loadRows seen (r :: rest) = some entries ↔
      r.code ∉ seen ∧ ∃ e more, loadRow r = some e ∧ loadRows (r.code :: seen) rest = some more ∧
        (r.code, e) :: more = entries := by
  rw [loadRows]
  cases loadRow r <;> cases loadRows (r.code :: seen) rest <;> simp

/-- The rows are accepted where each is, and no code is repeated or seen before. -/
theorem exists_loadRows_iff {seen : List Byte} {rows : List RawRow} :
    (∃ entries, loadRows seen rows = some entries) ↔
      (∀ r ∈ rows, ¬ RowMalformed r) ∧ (rows.map RawRow.code).Nodup ∧ ∀ r ∈ rows, r.code ∉ seen := by
  induction rows generalizing seen with
  | nil => simp [loadRows]
  | cons r rest ih =>
    have hrow : (∃ e, loadRow r = some e) ↔ ¬ RowMalformed r := by
      rw [← loadRow_eq_none_iff, ← Option.ne_none_iff_exists', ne_eq]
    have hcons : (∃ entries, loadRows seen (r :: rest) = some entries) ↔
        r.code ∉ seen ∧ (∃ e, loadRow r = some e) ∧ ∃ more, loadRows (r.code :: seen) rest = some more := by
      simp [loadRows_cons_eq_some]
    rw [hcons, hrow, ih, List.forall_mem_cons, List.forall_mem_cons]
    simp only [List.map_cons, List.nodup_cons, List.mem_map, List.mem_cons, not_or, not_exists, not_and]
    constructor
    · rintro ⟨hseen, hwf, hwfs, hnodup, hfresh⟩
      exact ⟨⟨hwf, hwfs⟩, ⟨fun x hx => (hfresh x hx).1, hnodup⟩, hseen, fun x hx => (hfresh x hx).2⟩
    · rintro ⟨⟨hwf, hwfs⟩, ⟨hne, hnodup⟩, hseen, hfresh⟩
      exact ⟨hseen, hwf, hwfs, hnodup, fun x hx => ⟨hne x hx, hfresh x hx⟩⟩

theorem catalogMalformed_iff {rows : List RawRow} : CatalogMalformed rows ↔ loadRows [] rows = none := by
  have haccepted := exists_loadRows_iff (seen := []) (rows := rows)
  rw [← Option.ne_none_iff_exists'] at haccepted
  rw [← not_iff_not, ← ne_eq, haccepted]
  simp [CatalogMalformed]

/-- The entries of accepted rows: none for a code that no row has, and for a row's code the row's own. -/
theorem loadRows_lookup {seen : List Byte} {rows : List RawRow} {entries : List (Byte × Entry)}
    (h : loadRows seen rows = some entries) :
    (∀ k, k ∉ rows.map RawRow.code → entries.lookup k = none) ∧
      ∀ r ∈ rows, ∃ e, loadRow r = some e ∧ entries.lookup r.code = some e := by
  induction rows generalizing seen entries with
  | nil =>
    obtain rfl := Option.some.inj h
    exact ⟨fun _ _ => rfl, by simp⟩
  | cons r rest ih =>
    obtain ⟨-, e, more, hrow, hmore, rfl⟩ := loadRows_cons_eq_some.1 h
    obtain ⟨hother, hrows⟩ := ih hmore
    have hskip {k : Byte} (hk : k ≠ r.code) : ((r.code, e) :: more).lookup k = more.lookup k := by
      rw [List.lookup_cons, beq_false_of_ne hk]
    refine ⟨fun k hk => ?_, fun r' hr' => ?_⟩
    · obtain ⟨hne, hrest⟩ : k ≠ r.code ∧ k ∉ rest.map RawRow.code := by simpa [not_or] using hk
      rw [hskip hne, hother k hrest]
    · obtain rfl | hmem := List.mem_cons.1 hr'
      · exact ⟨e, hrow, by simp⟩
      · have hfresh := (exists_loadRows_iff.1 ⟨more, hmore⟩).2.2 r' hmem
        rw [hskip fun heq => hfresh (heq ▸ List.mem_cons_self)]
        exact hrows r' hmem

/-! ### Boot -/

theorem boot_of_concurrent {c : Setup} (h : 1 < c.requesters) : boot c = .error .concurrentRequesters := if_pos h

theorem boot_of_malformed {c : Setup} (hrequesters : c.requesters ≤ 1) (h : CatalogMalformed c.rows) :
    boot c = .error .malformedCatalog := by
  have hnone := loadTables_eq_none (named := c.named) (texts := c.resultTexts) |>.2 (catalogMalformed_iff.1 h)
  simp only [boot, hnone, if_neg (Nat.not_lt.2 hrequesters)]

/-- Settles O60: the two refusals (log 14), and otherwise the entries that the accepted rows write. -/
theorem bootRefusesWhatTheSpecRefuses : Obligations.BootRefusesWhatTheSpecRefuses := by
  unfold Obligations.BootRefusesWhatTheSpecRefuses
  refine ⟨fun c => boot_of_concurrent, fun c => boot_of_malformed, fun c hrequesters hwf => ?accepted⟩
  case accepted =>
    obtain ⟨entries, hentries⟩ := Option.ne_none_iff_exists'.1 (mt catalogMalformed_iff.2 hwf)
    obtain ⟨hother, hrows⟩ := loadRows_lookup hentries
    have htables := loadTables_eq_some (named := c.named) (texts := c.resultTexts) |>.2 ⟨entries, hentries, rfl⟩
    refine ⟨{ rows := entries, named := c.named }, rfl, boot_of_loadTables hrequesters htables, fun k hk => ?_,
      fun r hr => ?_⟩
    · rw [Catalog.entry, hother k hk, Option.getD_none]
    · obtain ⟨e, hrow, hlookup⟩ := hrows r hr
      have hentry : Catalog.entry { rows := entries, named := c.named } r.code = e := by
        rw [Catalog.entry, hlookup, Option.getD_some]
      rw [hentry]
      exact rowEntry_of_loadRow hrow

end Sys2Proof.Machine
end
